-- ==== Sys2Proof/Word.lean ====
section
/-!
DEFINITION. The bit-level types of the block: 32-bit register words, bytes, and the 16-bit values of the CRC register and of PCM
samples (00_scope.md R9, R12 to R14).
-/

namespace Sys2Proof

/-- A register, command or argument word (00_scope.md R9: register width 32 bits). -/
abbrev Word := BitVec 32

/-- One byte of local memory (20_memory.md R71). -/
abbrev Byte := BitVec 8

/-- A 16-bit value: the CRC register (10_state.md R36) or one signed PCM sample (00_scope.md R9). -/
abbrev Half := BitVec 16

/-- A bit sequence, first bit in time first (00_scope.md R14, R16). -/
abbrev Bits := List Bool

end Sys2Proof
end

