-- ==== Sys2Proof/Config.lean ====
section
/-!
DEFINITION. What an implementation fixes, and the one free value of the spec.
-/

namespace Sys2Proof

/-- The smallest local memory the parameter LMEM_SIZE allows (00_scope.md R9). -/
def Config.lmemSizeMin : Nat := 4096

/-- The largest local memory the parameter LMEM_SIZE allows (00_scope.md R9). -/
def Config.lmemSizeMax : Nat := 2 ^ 23

/-- The LMEM_SIZE of `State.reset`: the value the spec's test vectors use (00_scope.md R9). DESIGN CHOICE, unsafe (log 1):
LMEM_SIZE is an OPEN parameter; it stands in State, so a statement about every state covers every size. -/
def Config.resetLmemSize : Nat := 65536

/-- FREE VALUE (log 3): what the n-th read of RESULT or of a unit-state register while STATUS.BUSY = 1 returns
(10_state.md R52; 93_implementation_defined.md I4: any 32-bit value, independent for each read). It has no body. -/
opaque Config.busyRead : Nat → Word

end Sys2Proof
end

