-- ==== Sys2Proof/Syntax.lean ====
section
/-!
DEFINITION. The commands: one constructor per row of spec/opcode_table.json (30_encoding.md R106), with the operands that the
row's format carries in IMM (R103). Memory operands are not in the word: they are the latched argument registers (R104).
-/

namespace Sys2Proof

/-- A command of the block. `ssid` and `ndigi` are numbers, as the assembler syntax of 30_encoding.md R110 writes them; their
field widths are checked by `Instr.wellFormed`. -/
inductive Instr where
  /-- NOP (40_common.md R144). -/
  | nop
  /-- CRC_INIT (42_crc.md R178). -/
  | crcInit
  /-- CRC_BYTE val (42_crc.md R179). -/
  | crcByte (val : Byte)
  /-- CRC_FINAL (42_crc.md R180). -/
  | crcFinal
  /-- CRC_BUF (42_crc.md R181). -/
  | crcBuf
  /-- ADDR_ENC ssid, last (41_address_encoder.md R165). -/
  | addrEnc (ssid : Nat) (last : Bool)
  /-- FRAME_BUILD ndigi (43_frame_builder.md R194). -/
  | frameBuild (ndigi : Nat)
  /-- STUFF_RESET (44_bit_transformer.md R210). -/
  | stuffReset
  /-- STUFF_BIT bit (44_bit_transformer.md R211). -/
  | stuffBit (bit : Bool)
  /-- STUFF_BUF (44_bit_transformer.md R212). -/
  | stuffBuf
  /-- FRAME_WRAP (44_bit_transformer.md R218). -/
  | frameWrap
  /-- NRZI_SET bit (44_bit_transformer.md R222). -/
  | nrziSet (bit : Bool)
  /-- NRZI_BIT bit (44_bit_transformer.md R223). -/
  | nrziBit (bit : Bool)
  /-- NRZI_BUF (44_bit_transformer.md R224). -/
  | nrziBuf
  /-- LINE_ENCODE (44_bit_transformer.md R226). -/
  | lineEncode
  /-- LUT_READ index (45_sine_lut.md R244). -/
  | lutRead (index : Byte)
  /-- SYNTH_PREP (46_tone_synth.md R256). -/
  | synthPrep
  /-- SYNTH (46_tone_synth.md R262). -/
  | synth
  deriving DecidableEq, Repr

end Sys2Proof
end

