-- ==== Sys2Proof/WellFormed.lean ====
section
/-!
DEFINITION. Which commands can be written as a word: an operand outside its field's width is an assembly error, not a command
(30_encoding.md R110). The other operands have their field's width in their type.
-/

namespace Sys2Proof

/-- Every operand fits its IMM field (30_encoding.md R103, R104, R110): SSID is 8 bits wide, NDIGI is 4 bits wide. An SSID of 16
to 255 is a well-formed command; it fails with ERR_SSID when it runs (41_address_encoder.md R165). -/
def Instr.wellFormed : Instr → Bool
  | .addrEnc ssid _ => ssid < 256
  | .frameBuild ndigi => ndigi < 16
  | .nop | .crcInit | .crcByte _ | .crcFinal | .crcBuf | .stuffReset | .stuffBit _ | .stuffBuf | .frameWrap | .nrziSet _
  | .nrziBit _ | .nrziBuf | .lineEncode | .lutRead _ | .synthPrep | .synth => true

end Sys2Proof
end

