-- ==== Sys2Proof/Decode.lean ====
section
/-!
DEFINITION. The decoder, total over every 32-bit command word (30_encoding.md R109), and after it the encoder (R101, R106).
-/

namespace Sys2Proof

/-- Why a word is no command: the two results `Illegal(ERR_OPCODE)` and `Illegal(ERR_FIELD)` of 30_encoding.md R109. -/
inductive DecodeError where
  /-- OPC is not assigned (R107). -/
  | opcode
  /-- A reserved bit of the opcode's format is 1 (R108). -/
  | field
  deriving DecidableEq, Repr

/-- The OPC field, bits 31:24 (30_encoding.md R101). -/
def opcField (w : Word) : BitVec 8 := w.extractLsb' 24 8

/-- The IMM field, bits 23:0 (30_encoding.md R101). -/
def immField (w : Word) : BitVec 24 := w.extractLsb' 0 24

/-- Format Z: IMM is all reserved (30_encoding.md R103). -/
def formatZ (imm : BitVec 24) (i : Instr) : Except DecodeError Instr :=
  if imm = 0#24 then .ok i else .error .field

/-- Format B8: VAL = IMM[7:0], IMM[23:8] reserved (30_encoding.md R103). -/
def formatB8 (imm : BitVec 24) (f : Byte → Instr) : Except DecodeError Instr :=
  if imm.extractLsb' 8 16 = 0#16 then .ok (f (imm.extractLsb' 0 8)) else .error .field

/-- Format B1: BIT = IMM[0], IMM[23:1] reserved (30_encoding.md R103). -/
def formatB1 (imm : BitVec 24) (f : Bool → Instr) : Except DecodeError Instr :=
  if imm.extractLsb' 1 23 = 0#23 then .ok (f (imm.getLsbD 0)) else .error .field

/-- Format AE: SSID = IMM[7:0], LAST = IMM[8], IMM[23:9] reserved (30_encoding.md R103). -/
def formatAE (imm : BitVec 24) (f : Nat → Bool → Instr) : Except DecodeError Instr :=
  if imm.extractLsb' 9 15 = 0#15 then .ok (f (imm.extractLsb' 0 8).toNat (imm.getLsbD 8)) else .error .field

/-- Format FB: NDIGI = IMM[3:0], IMM[23:4] reserved (30_encoding.md R103). -/
def formatFB (imm : BitVec 24) (f : Nat → Instr) : Except DecodeError Instr :=
  if imm.extractLsb' 4 20 = 0#20 then .ok (f (imm.extractLsb' 0 4).toNat) else .error .field

/-- The decode function of 30_encoding.md R109 over the opcode map of R106: the opcode check comes first, then the reserved
bits of the opcode's format. -/
def decode (w : Word) : Except DecodeError Instr :=
  match opcField w with
  | 0x00#8 => formatZ (immField w) .nop
  | 0x01#8 => formatZ (immField w) .crcInit
  | 0x02#8 => formatB8 (immField w) .crcByte
  | 0x03#8 => formatZ (immField w) .crcFinal
  | 0x04#8 => formatZ (immField w) .crcBuf
  | 0x08#8 => formatAE (immField w) .addrEnc
  | 0x09#8 => formatFB (immField w) .frameBuild
  | 0x10#8 => formatZ (immField w) .stuffReset
  | 0x11#8 => formatB1 (immField w) .stuffBit
  | 0x12#8 => formatZ (immField w) .stuffBuf
  | 0x13#8 => formatZ (immField w) .frameWrap
  | 0x14#8 => formatB1 (immField w) .nrziSet
  | 0x15#8 => formatB1 (immField w) .nrziBit
  | 0x16#8 => formatZ (immField w) .nrziBuf
  | 0x17#8 => formatZ (immField w) .lineEncode
  | 0x20#8 => formatB8 (immField w) .lutRead
  | 0x21#8 => formatZ (immField w) .synthPrep
  | 0x22#8 => formatZ (immField w) .synth
  | _ => .error .opcode

/-- The opcode of each command (30_encoding.md R106). -/
def opcodeOf : Instr → BitVec 8
  | .nop => 0x00
  | .crcInit => 0x01
  | .crcByte _ => 0x02
  | .crcFinal => 0x03
  | .crcBuf => 0x04
  | .addrEnc _ _ => 0x08
  | .frameBuild _ => 0x09
  | .stuffReset => 0x10
  | .stuffBit _ => 0x11
  | .stuffBuf => 0x12
  | .frameWrap => 0x13
  | .nrziSet _ => 0x14
  | .nrziBit _ => 0x15
  | .nrziBuf => 0x16
  | .lineEncode => 0x17
  | .lutRead _ => 0x20
  | .synthPrep => 0x21
  | .synth => 0x22

/-- The immediate field of each command, reserved bits 0 (30_encoding.md R103). -/
def immediateOf : Instr → BitVec 24
  | .crcByte val => val.setWidth 24
  | .lutRead index => index.setWidth 24
  | .stuffBit bit => BitVec.setWidth 24 (BitVec.ofBool bit)
  | .nrziSet bit => BitVec.setWidth 24 (BitVec.ofBool bit)
  | .nrziBit bit => BitVec.setWidth 24 (BitVec.ofBool bit)
  | .addrEnc ssid last => BitVec.setWidth 24 (BitVec.ofBool last ++ BitVec.ofNat 8 ssid)
  | .frameBuild ndigi => BitVec.setWidth 24 (BitVec.ofNat 4 ndigi)
  | .nop | .crcInit | .crcFinal | .crcBuf | .stuffReset | .stuffBuf | .frameWrap | .nrziBuf | .lineEncode | .synthPrep
  | .synth => 0

/-- The word of a command, `(OPC << 24) or IMM` (30_encoding.md R106). -/
def encode (i : Instr) : Word := opcodeOf i ++ immediateOf i

/-- The command that the decoder reads from an instruction whose bits are `w`, numbered as spec/opcode_table.json numbers them: a
command is exactly one 32-bit word (30_encoding.md R102), so bits above `nbits` are 0 and bits above 31 make it no command. -/
def decodeTableWord (nbits w : Nat) : Option Instr :=
  if w % 2 ^ nbits < 2 ^ 32 then (decode (BitVec.ofNat 32 (w % 2 ^ nbits))).toOption else none

end Sys2Proof
end

