-- ==== Sys2Proof/Machine/State.lean ====
section
/-!
DEFINITION. The state of one block instance as plain data (10_state.md R20), the state after reset (R51), and the reasons a step
can stop. BUSY is not a field: it is 1 exactly when a command is latched (R47).
-/

namespace Sys2Proof.Machine

/-- Why the machine stops. A command error is none of these: it is a code in STATUS.ERR (60_exceptions.md R307). A fault is never
cleared (40_common.md R149). -/
inductive Fault where
  /-- Raised by a HOST access that 20_memory.md R73 to R75 do not allow (R79). Safe: no run that makes such an access can be
  shown to have a result. -/
  | busError
  /-- Raised by a HOST access to LMEM while STATUS.BUSY = 1 (20_memory.md R89, 70_reset_and_hazards.md R322). Safe: the
  hardware goes on with unspecified bytes, the model stops. -/
  | hostLmemWhileBusy
  /-- Raised by a HOST read of an LMEM byte not written since reset (20_memory.md R90). Safe: the hardware returns an
  unspecified byte, the model stops. -/
  | hostReadUnwritten
  /-- Raised by the ENGINE when a command's input region holds an LMEM byte not written since reset (20_memory.md R90,
  93_implementation_defined.md I6). Safe: the hardware computes from an unspecified byte, the model stops. -/
  | engineReadUnwritten
  deriving DecidableEq, Repr

/-- Why a step has no meaning. -/
inductive Refusal where
  /-- Raised only by an arm of `exec` whose command has no meaning yet; no arm does so now. Safe: nothing is said of the
  command. -/
  | notModelled (mnemonic : String)
  deriving DecidableEq, Repr

/-- The error names of STATUS.ERR (60_exceptions.md R301); codes 10 to 15 are never produced, so they have no name. -/
inductive ErrCode where
  | none | opcode | field | config | range | overlap | capacity | callLen | callChar | ssid
  deriving DecidableEq, Repr

/-- The argument registers A0 to A3 (10_state.md R28), or a latched copy of them. -/
structure Args where
  a0 : Word
  a1 : Word
  a2 : Word
  a3 : Word
  deriving DecidableEq, Repr

/-- The five configuration registers (10_state.md R29 to R33), or a latched copy of them. -/
structure Cfg where
  sampleRate : Word
  bitRate : Word
  markFreq : Word
  spaceFreq : Word
  frameCfg : Word
  deriving DecidableEq, Repr

/-- The unit-state registers (10_state.md R36 to R44), each at the width of its listed field; the bits above read 0. -/
structure Units where
  crc : Half
  onesCnt : BitVec 3
  lineState : Bool
  toneAcc : Word
  bitAcc : Word
  markStep : Word
  spaceStep : Word
  bitStep : Word
  spb : Word
  deriving DecidableEq, Repr

/-- A latched command: its word, its four arguments and its copy of the configuration (10_state.md R47, 40_common.md R133). -/
structure Latched where
  word : Word
  args : Args
  cfg : Cfg
  deriving DecidableEq, Repr

/-- One thing that can happen next. The HOST and the ENGINE interleave in any order (00_scope.md R8, 20_memory.md R84), and reset
is asserted from outside (70_reset_and_hazards.md R311). -/
inductive Event where
  /-- The ENGINE's turn: it completes the latched command, if there is one (40_common.md R135). -/
  | engine
  /-- A HOST read of `width` bytes at a host-port offset (20_memory.md R73 to R75). -/
  | read (offset : BitVec 24) (width : Nat)
  /-- A HOST write of the low `width` bytes of `value` at a host-port offset. -/
  | write (offset : BitVec 24) (width : Nat) (value : Word)
  /-- Reset is asserted and released (70_reset_and_hazards.md R311, R312). -/
  | reset
  deriving DecidableEq, Repr

/-- Local memory: the bytes written since reset, by rising address. An address not listed has no value (20_memory.md R90). -/
abbrev Memory := List Host.Cell

/-- The state of the block, and three fields of the model (`schedule`, `draws`, `readData`). -/
structure State where
  /-- A0 to A3 (10_state.md R28). -/
  args : Args
  /-- SAMPLE_RATE, BIT_RATE, MARK_FREQ, SPACE_FREQ, FRAME_CFG (10_state.md R29 to R33). -/
  cfg : Cfg
  /-- RESULT (10_state.md R35). -/
  result : Word
  /-- STATUS.ERR (10_state.md R26). -/
  err : ErrCode
  /-- STATUS.ERRS (10_state.md R26). -/
  errs : Bool
  /-- STATUS.OVR (10_state.md R26). -/
  ovr : Bool
  /-- The latched command; STATUS.BUSY = 1 exactly when there is one (10_state.md R47). -/
  latched : Option Latched
  /-- The unit-state registers (10_state.md R36 to R44). -/
  units : Units
  /-- LMEM (20_memory.md R71, R90). -/
  lmem : Memory
  /-- The implementation parameter LMEM_SIZE (00_scope.md R9, 10_state.md R45); no step changes it. Log 1. -/
  lmemSize : Nat
  /-- The model's own: the events still to come, first first. Log 2. -/
  schedule : List Event
  /-- The model's own: how many unspecified reads have been answered; it numbers the free values. Log 3. -/
  draws : Nat
  /-- The model's own: the data the last HOST read returned. Log 8. -/
  readData : Option Word
  deriving DecidableEq, Repr

/-- The reset table of 10_state.md R51, for a block with `size` bytes of local memory and nothing scheduled. -/
def State.resetOf (size : Nat) : State where
  args := { a0 := 0, a1 := 0, a2 := 0, a3 := 0 }
  cfg := { sampleRate := 8000, bitRate := 1200, markFreq := 1200, spaceFreq := 2200, frameCfg := 0x34B }
  result := 0
  err := .none
  errs := false
  ovr := false
  latched := none
  units :=
    { crc := 0xFFFF, onesCnt := 0, lineState := false, toneAcc := 0, bitAcc := 0, markStep := 0, spaceStep := 0,
      bitStep := 0, spb := 0 }
  lmem := []
  lmemSize := size
  schedule := []
  draws := 0
  readData := none

/-- The machine right after reset (10_state.md R51, 70_reset_and_hazards.md R311). -/
def State.reset : State := State.resetOf Config.resetLmemSize

end Sys2Proof.Machine
end

