-- ==== Sys2Proof/Machine/Ops.lean ====
section
/-!
DEFINITION. The named operations over memory and registers: reading and writing LMEM bytes, the updates of one register each,
issuing a command, completing it with success or with an error code, and reset.
-/

namespace Sys2Proof.Machine

/-! ### Local memory -/

/-- The value of an LMEM byte; `none` when it has not been written since reset (20_memory.md R90). -/
def Memory.read : Memory → Nat → Option Byte
  | [], _ => none
  | (k, v) :: m, a => if a = k then some v else Memory.read m a

/-- Stores one byte, keeping the addresses rising. -/
def Memory.write : Memory → Nat → Byte → Memory
  | [], a, b => [(a, b)]
  | (k, v) :: m, a, b =>
    if a < k then (a, b) :: (k, v) :: m
    else if a = k then (a, b) :: m
    else (k, v) :: Memory.write m a b

/-- The canonical form: addresses strictly rising. Every listed entry differs from what an unlisted address reads as, since an
unlisted address has no value. -/
abbrev Memory.wf (m : Memory) : Prop := m.Pairwise fun x y => x.1 < y.1

/-- `ReadBytes(a, n)` (00_scope.md R15); `none` when one of the bytes has not been written since reset (20_memory.md R90). -/
def Memory.readBytes (m : Memory) : Nat → Nat → Option (List Byte)
  | _, 0 => some []
  | a, n + 1 =>
    match m.read a, Memory.readBytes m (a + 1) n with
    | some b, some t => some (b :: t)
    | _, _ => none

/-- `WriteBytes(a, s)` (00_scope.md R15). -/
def Memory.writeBytes (m : Memory) : Nat → List Byte → Memory
  | _, [] => m
  | a, b :: t => Memory.writeBytes (m.write a b) (a + 1) t

/-- The little-endian value of a byte sequence, as `MemRead` computes it (00_scope.md R15, 20_memory.md R76). -/
def littleEndian : List Byte → Nat
  | [] => 0
  | b :: t => b.toNat + 256 * littleEndian t

/-- The low `n` bytes of a value, least significant first, as `MemWrite` stores them (00_scope.md R15, 20_memory.md R76). -/
def bytesOfValue : Nat → Nat → List Byte
  | 0, _ => []
  | n + 1, v => BitVec.ofNat 8 v :: bytesOfValue n (v / 256)

/-! ### Registers -/

/-- STATUS.BUSY (10_state.md R26, R47). -/
def State.busy (s : State) : Bool := s.latched.isSome

/-- The arguments a command reads: the latched copy (40_common.md R133). With no command latched they are the live registers,
as at an issue in the same instant (log 11); `step` runs commands only when one is latched. -/
def State.cmdArgs (s : State) : Args :=
  match s.latched with
  | some c => c.args
  | none => s.args

/-- The configuration a command reads: the latched copy (40_common.md R133); see `State.cmdArgs`. -/
def State.cmdCfg (s : State) : Cfg :=
  match s.latched with
  | some c => c.cfg
  | none => s.cfg

/-- Writes RESULT (10_state.md R35). -/
def State.setResult (s : State) (v : Word) : State := { s with result := v }

/-- Writes the CRC register (10_state.md R36). -/
def State.setCrc (s : State) (v : Half) : State := { s with units := { s.units with crc := v } }

/-- Writes ONES_CNT, whose field is 3 bits wide (10_state.md R37). -/
def State.setOnesCnt (s : State) (n : Nat) : State :=
  { s with units := { s.units with onesCnt := BitVec.ofNat 3 n } }

/-- Writes LINE_STATE (10_state.md R38). -/
def State.setLineState (s : State) (b : Bool) : State := { s with units := { s.units with lineState := b } }

/-- Writes TONE_ACC and BIT_ACC (10_state.md R39, R40). -/
def State.setAccs (s : State) (tone : Word) (bit : Nat) : State :=
  { s with units := { s.units with toneAcc := tone, bitAcc := BitVec.ofNat 32 bit } }

/-- Writes MARK_STEP, SPACE_STEP, BIT_STEP and SPB (10_state.md R41 to R44). -/
def State.setSteps (s : State) (mark space : Word) (bit spb : Nat) : State :=
  { s with
    units :=
      { s.units with
        markStep := mark, spaceStep := space, bitStep := BitVec.ofNat 32 bit, spb := BitVec.ofNat 32 spb } }

/-- Writes a byte sequence to LMEM from an address upward. -/
def State.store (s : State) (a : Nat) (bytes : List Byte) : State := { s with lmem := s.lmem.writeBytes a bytes }

/-- Writes the argument registers. -/
def State.setArgs (s : State) (a : Args) : State := { s with args := a }

/-- Writes the configuration registers. -/
def State.setCfg (s : State) (c : Cfg) : State := { s with cfg := c }

/-- Sets STATUS.OVR: a host write was ignored because BUSY = 1 (10_state.md R34, 40_common.md R134). -/
def State.setOvr (s : State) : State := { s with ovr := true }

/-- Gives the host the data of its read. -/
def State.giveData (s : State) (v : Word) : State := { s with readData := some v }

/-- Gives the host an unspecified value (10_state.md R52): the next free value, so that each read has one of its own. -/
def State.giveUnspecified (s : State) : State :=
  { s with readData := some (Config.busyRead s.draws), draws := s.draws + 1 }

/-! ### The lifecycle of a command -/

/-- Issue and latch (40_common.md R132, R133): BUSY becomes 1, ERR becomes 0, the word, the arguments and the configuration are
copied; no other state changes. -/
def State.issue (s : State) (w : Word) : State :=
  { s with latched := some { word := w, args := s.args, cfg := s.cfg }, err := .none }

/-- Completion with an error code (40_common.md R135, R137; 60_exceptions.md R304): ERR ← code, ERRS ← 1, BUSY ← 0, nothing is
latched, nothing else changes. This is the one operation that every command error takes; there is nothing to return from
(60_exceptions.md R305). -/
def State.fail (s : State) (code : ErrCode) : State :=
  { s with err := code, errs := true, latched := none }

/-- Completion with code 0 (40_common.md R135): ERR ← 0, BUSY ← 0, nothing is latched. The command's effects are applied
before it (R138). -/
def State.succeed (s : State) : State := { s with err := .none, latched := none }

/-- Reset (70_reset_and_hazards.md R311, R312): every register as in 10_state.md R51, a latched command abandoned, every LMEM
byte not written. LMEM_SIZE is constant (10_state.md R45). The model's own fields go on: the rest of the schedule, the count of
draws and the data the host has read (log 19). -/
def State.applyReset (s : State) : State :=
  { State.resetOf s.lmemSize with schedule := s.schedule, draws := s.draws, readData := s.readData }

end Sys2Proof.Machine
end

