-- ==== Sys2Proof/Machine/Flags.lean ====
section
/-!
DEFINITION. The flags: the fields of STATUS, how the register reads and what a host write of it clears (10_state.md R26, R50). No
command reads a flag; every command sets them in the same way, through `State.fail` and `State.succeed` (40_common.md R148).
-/

namespace Sys2Proof.Machine

/-- The 4-bit code of each error name (60_exceptions.md R301). -/
def ErrCode.code : ErrCode → BitVec 4
  | .none => 0
  | .opcode => 1
  | .field => 2
  | .config => 3
  | .range => 4
  | .overlap => 5
  | .capacity => 6
  | .callLen => 7
  | .callChar => 8
  | .ssid => 9

/-- STATUS as the host reads it: OVR in bit 9, ERRS in bit 8, ERR in bits 7:4, BUSY in bit 0, every other bit 0
(10_state.md R26). -/
def State.status (s : State) : Word :=
  0#22 ++ BitVec.ofBool s.ovr ++ BitVec.ofBool s.errs ++ s.err.code ++ 0#3 ++ BitVec.ofBool s.busy

/-- A host write of STATUS: a 1 in bit 8 clears ERRS, a 1 in bit 9 clears OVR, whether or not BUSY = 1; the other bits have no
effect (10_state.md R24, R26). -/
def State.clearSticky (s : State) (v : Word) : State :=
  { s with errs := s.errs && !v.getLsbD 8, ovr := s.ovr && !v.getLsbD 9 }

end Sys2Proof.Machine
end

