-- ==== Sys2Proof/Machine/Operands.lean ====
section
/-!
DEFINITION. The operand forms: the fields of FRAME_CFG, buffer regions and their checks, bit sequences and samples in LMEM, and
the fixed order in which every command checks its operands (40_common.md R136, R139 to R143).
-/

namespace Sys2Proof.Machine

/-! ### Fields of the configuration -/

/-- FRAME_CFG.PREPEND, bits 7:0, in bytes (10_state.md R33). -/
def Cfg.prepend (c : Cfg) : Nat := (c.frameCfg.extractLsb' 0 8).toNat

/-- FRAME_CFG.POSTPEND, bits 15:8, in bytes (10_state.md R33). -/
def Cfg.postpend (c : Cfg) : Nat := (c.frameCfg.extractLsb' 8 8).toNat

/-- FRAME_CFG.NRZI_INIT, bit 16 (10_state.md R33). -/
def Cfg.nrziInit (c : Cfg) : Bool := c.frameCfg.getLsbD 16

/-- FRAME_CFG.SYNTH_MODE, bit 17: false exact, true naive (10_state.md R33). -/
def Cfg.synthMode (c : Cfg) : Bool := c.frameCfg.getLsbD 17

/-- A host write of FRAME_CFG stores bits 17:0; bits 31:18 read 0 and ignore writes (10_state.md R33). -/
def frameCfgStored (v : Word) : Word := v &&& 0x0003FFFF#32

/-! ### Arguments as unsigned integers (30_encoding.md R104) -/

/-- A[0] as an unsigned integer. -/
def Args.n0 (a : Args) : Nat := a.a0.toNat

/-- A[1] as an unsigned integer. -/
def Args.n1 (a : Args) : Nat := a.a1.toNat

/-- A[2] as an unsigned integer. -/
def Args.n2 (a : Args) : Nat := a.a2.toNat

/-- A[3] as an unsigned integer. -/
def Args.n3 (a : Args) : Nat := a.a3.toNat

/-! ### Regions -/

/-- `Region(start, len)`: a set of LMEM byte addresses, in unbounded integers (40_common.md R139). -/
structure Region where
  start : Nat
  len : Nat
  deriving DecidableEq, Repr

/-- `InRange` (40_common.md R139): an empty region is always in range. -/
def inRange (size : Nat) (r : Region) : Bool := r.len == 0 || decide (r.start + r.len ≤ size)

/-- `Overlap` (40_common.md R139): an empty region overlaps nothing. -/
def overlap (r q : Region) : Bool :=
  decide (0 < r.len) && decide (0 < q.len) && decide (r.start < q.start + q.len) && decide (q.start < r.start + r.len)

/-- The number of bytes that hold `n` packed bits, `ceil(n / 8)` (20_memory.md R77). -/
def bytesForBits (n : Nat) : Nat := (n + 7) / 8

/-- `ByteRegion(b, n)` (40_common.md R143). -/
def byteRegion (b n : Nat) : Region := ⟨b, n⟩

/-- `BitRegion(b, n)` (40_common.md R143). -/
def bitRegion (b n : Nat) : Region := ⟨b, bytesForBits n⟩

/-- `SampleRegion(b, n)` (40_common.md R143). -/
def sampleRegion (b n : Nat) : Region := ⟨b, 2 * n⟩

/-! ### Bit sequences and samples -/

/-- The bits of one byte, least significant first (44_bit_transformer.md R206). -/
def bitsOfByte (b : Byte) : Bits :=
  [b.getLsbD 0, b.getLsbD 1, b.getLsbD 2, b.getLsbD 3, b.getLsbD 4, b.getLsbD 5, b.getLsbD 6, b.getLsbD 7]

/-- `Bits(s)` of a byte sequence (44_bit_transformer.md R206). -/
def bitsOfBytes : List Byte → Bits
  | [] => []
  | b :: t => bitsOfByte b ++ bitsOfBytes t

/-- `ReadBits(b, n)` (40_common.md R140): the first `n` bits of the bytes of `BitRegion(b, n)`; `none` when one of those bytes
has not been written since reset. -/
def Memory.readBits (m : Memory) (b n : Nat) : Option Bits :=
  (m.readBytes b (bytesForBits n)).map fun bytes => (bitsOfBytes bytes).take n

/-- The number whose bits, least significant first, are the given ones. -/
def valueOfBits : Bits → Nat
  | [] => 0
  | b :: t => b.toNat + 2 * valueOfBits t

/-- `n` bytes packed from a bit sequence, eight bits to a byte, bits past its end 0 (40_common.md R141). -/
def packBytes : Nat → Bits → List Byte
  | 0, _ => []
  | n + 1, s => BitVec.ofNat 8 (valueOfBits (s.take 8)) :: packBytes n (s.drop 8)

/-- The `ceil(n / 8)` bytes that `WriteBits` stores for a bit sequence of length `n` (40_common.md R141). -/
def packBits (s : Bits) : List Byte := packBytes (bytesForBits s.length) s

/-- The bytes that `WriteSamples` stores, two a sample, low byte first (40_common.md R142, 20_memory.md R78). -/
def packSamples : List Half → List Byte
  | [] => []
  | x :: t => x.extractLsb' 0 8 :: x.extractLsb' 8 8 :: packSamples t

/-! ### The order of checks -/

/-- The first failing check of a list of (does it fail, its code). -/
def firstFailing : List (Bool × ErrCode) → Option ErrCode
  | [] => none
  | (bad, code) :: rest => if bad then some code else firstFailing rest

/-- Steps 4 and 5 of `Exec` (40_common.md R136): every input and output region in range, then no input overlapping an output. -/
def regionError (size : Nat) (ins outs : List Region) : Option ErrCode :=
  if (ins ++ outs).any fun r => !inRange size r then some .range
  else if ins.any fun r => outs.any fun q => overlap r q then some .overlap
  else none

/-- `Exec` after decoding (40_common.md R136), with completion (R135). `checks` are the configuration and operand-value checks,
in order (steps 2 and 3); `ins` and `outs` the input and output regions (steps 4 and 5); `input` what the command reads from
its input regions, all of them whole (log 6), where a byte not written since reset is a fault of the ENGINE (20_memory.md R90);
`body` the content and capacity checks and the effects (steps 6 to 8). A body answers an error code or the state with its effects
applied; an error applies no effect (R137). -/
def command {α : Type} (s : State) (checks : List (Bool × ErrCode)) (ins outs : List Region) (input : Option α)
    (body : α → Except ErrCode State) : Host.Outcome State Fault Refusal :=
  match firstFailing checks with
  | some code => .next (s.fail code)
  | none =>
    match regionError s.lmemSize ins outs with
    | some code => .next (s.fail code)
    | none =>
      match input with
      | none => .fault .engineReadUnwritten
      | some x =>
        match body x with
        | .error code => .next (s.fail code)
        | .ok t => .next t.succeed

/-- Step 7 of `Exec` (40_common.md R136): an output of `n` units must fit in the capacity. -/
def withCapacity (n capacity : Nat) (t : State) : Except ErrCode State :=
  if n ≤ capacity then .ok t else .error .capacity

end Sys2Proof.Machine
end

