-- ==== Sys2Proof/Machine/BitCoder.lean ====
section
/-!
DEFINITION. The bit-stuffer, framer and NRZI encoder (44_bit_transformer.md).
-/

namespace Sys2Proof.Machine

/-! ### Bit-stuffing -/

/-- `StuffStep` (44_bit_transformer.md R207): the output bits and the new count. -/
def stuffStep (cnt : Nat) (b : Bool) : Bits × Nat :=
  if b then
    if cnt + 1 = 5 then ([true, false], 0) else ([true], cnt + 1)
  else ([false], 0)

/-- `Stuff` (44_bit_transformer.md R208): the stuffed bits and the final count. -/
def stuff : Nat → Bits → Bits × Nat
  | cnt, [] => ([], cnt)
  | cnt, b :: t => ((stuffStep cnt b).1 ++ (stuff (stuffStep cnt b).2 t).1, (stuff (stuffStep cnt b).2 t).2)

/-- The bit-output packet in RESULT: the number of output bits in 15:8, the bits in 7:0, first bit in bit 0
(44_bit_transformer.md R211, R223). -/
def bitPacket (o : Bits) : Word := BitVec.ofNat 32 (o.length * 256 + valueOfBits o)

/-- STUFF_RESET (44_bit_transformer.md R210). -/
def execStuffReset (s : State) : Host.Outcome State Fault Refusal := .next ((s.setOnesCnt 0).setResult 0).succeed

/-- STUFF_BIT (44_bit_transformer.md R211). -/
def execStuffBit (bit : Bool) (s : State) : Host.Outcome State Fault Refusal :=
  let o := stuffStep s.units.onesCnt.toNat bit
  .next ((s.setOnesCnt o.2).setResult (bitPacket o.1)).succeed

/-- STUFF_BUF (44_bit_transformer.md R212): continues from ONES_CNT. -/
def execStuffBuf (s : State) : Host.Outcome State Fault Refusal :=
  let a := s.cmdArgs
  command s [] [bitRegion a.n0 a.n1] [bitRegion a.n2 a.n3] (s.lmem.readBits a.n0 a.n1) fun bits =>
    let o := stuff s.units.onesCnt.toNat bits
    withCapacity o.1.length a.n3
      (((s.store a.n2 (packBits o.1)).setOnesCnt o.2).setResult (BitVec.ofNat 32 o.1.length))

/-! ### Framing -/

/-- `FLAG`, the pattern 01111110 (44_bit_transformer.md R214). -/
def flag : Bits := [false, true, true, true, true, true, true, false]

/-- `n` flags in a row. -/
def flags : Nat → Bits
  | 0 => []
  | n + 1 => flag ++ flags n

/-- `Wrap(s, P, Q)` (44_bit_transformer.md R215, R216): preamble, opening flags, the stuffed bits, closing flags; nothing for an
empty input. -/
def wrap (s : Bits) (p q : Nat) : Bits :=
  match s with
  | [] => []
  | _ :: _ => List.replicate (8 * (p - q)) false ++ flags q ++ s ++ flags q

/-- The configuration check of the framing commands: it fails when PREPEND < POSTPEND (44_bit_transformer.md R216). -/
def framingChecks (c : Cfg) : List (Bool × ErrCode) := [(decide (c.prepend < c.postpend), .config)]

/-- FRAME_WRAP (44_bit_transformer.md R218). -/
def execFrameWrap (s : State) : Host.Outcome State Fault Refusal :=
  let a := s.cmdArgs
  let c := s.cmdCfg
  command s (framingChecks c) [bitRegion a.n0 a.n1] [bitRegion a.n2 a.n3] (s.lmem.readBits a.n0 a.n1) fun bits =>
    let w := wrap bits c.prepend c.postpend
    withCapacity w.length a.n3 ((s.store a.n2 (packBits w)).setResult (BitVec.ofNat 32 w.length))

/-! ### NRZI -/

/-- `NrziStep` (44_bit_transformer.md R220): a 0 toggles the state, a 1 holds it. -/
def nrziStep (st b : Bool) : Bool := if b then st else !st

/-- `Nrzi` (44_bit_transformer.md R221): the line bits and the final state. -/
def nrzi : Bool → Bits → Bits × Bool
  | st, [] => ([], st)
  | st, b :: t => (nrziStep st b :: (nrzi (nrziStep st b) t).1, (nrzi (nrziStep st b) t).2)

/-- NRZI_SET (44_bit_transformer.md R222). -/
def execNrziSet (bit : Bool) (s : State) : Host.Outcome State Fault Refusal :=
  .next ((s.setLineState bit).setResult ((BitVec.ofBool bit).setWidth 32)).succeed

/-- NRZI_BIT (44_bit_transformer.md R223). -/
def execNrziBit (bit : Bool) (s : State) : Host.Outcome State Fault Refusal :=
  let st := nrziStep s.units.lineState bit
  .next ((s.setLineState st).setResult (bitPacket [st])).succeed

/-- NRZI_BUF (44_bit_transformer.md R224): continues from LINE_STATE. -/
def execNrziBuf (s : State) : Host.Outcome State Fault Refusal :=
  let a := s.cmdArgs
  command s [] [bitRegion a.n0 a.n1] [bitRegion a.n2 a.n3] (s.lmem.readBits a.n0 a.n1) fun bits =>
    let o := nrzi s.units.lineState bits
    withCapacity o.1.length a.n3
      (((s.store a.n2 (packBits o.1)).setLineState o.2).setResult (BitVec.ofNat 32 o.1.length))

/-! ### The whole transformer -/

/-- The four sub-stages in order, on a frame (44_bit_transformer.md R226, R227): the line-encoded bits, the final count and the
final line state. -/
def lineEncoded (c : Cfg) (frame : List Byte) : Bits × Nat × Bool :=
  let st := stuff 0 (bitsOfBytes frame)
  let o := nrzi c.nrziInit (wrap st.1 c.prepend c.postpend)
  (o.1, st.2, o.2)

/-- LINE_ENCODE (44_bit_transformer.md R226): the count starts at 0 and the line state at NRZI_INIT. -/
def execLineEncode (s : State) : Host.Outcome State Fault Refusal :=
  let a := s.cmdArgs
  let c := s.cmdCfg
  command s (framingChecks c) [byteRegion a.n0 a.n1] [bitRegion a.n2 a.n3] (s.lmem.readBytes a.n0 a.n1) fun frame =>
    let o := lineEncoded c frame
    withCapacity o.1.length a.n3
      ((((s.store a.n2 (packBits o.1)).setOnesCnt o.2.1).setLineState o.2.2).setResult (BitVec.ofNat 32 o.1.length))

end Sys2Proof.Machine
end

