-- ==== Sys2Proof/Machine/Address.lean ====
section
/-!
DEFINITION. The AX.25 address encoder (41_address_encoder.md).
-/

namespace Sys2Proof.Machine

/-- `Upper` (41_address_encoder.md R162): only 'a' to 'z' change. -/
def upper (c : Byte) : Byte := if 0x61#8 ≤ c ∧ c ≤ 0x7A#8 then c - 0x20#8 else c

/-- A printable callsign byte (41_address_encoder.md R163). -/
def printable (c : Byte) : Bool := decide (0x20#8 ≤ c) && decide (c ≤ 0x7E#8)

/-- The callsign upper-cased and padded to six characters with spaces (41_address_encoder.md R161, R164). -/
def paddedCall (call : List Byte) : List Byte := call.map upper ++ List.replicate (6 - call.length) 0x20#8

/-- Byte 6 of an address: bits 6:5 are 11, bits 4:1 the SSID, bit 0 the "is last" flag, bit 7 is 0
(41_address_encoder.md R161, R164, R166). -/
def ssidByte (ssid : Nat) (last : Bool) : Byte :=
  0x60#8 ||| (BitVec.ofNat 8 ssid <<< 1) ||| (BitVec.ofBool last).setWidth 8

/-- `EncodeAddress` (41_address_encoder.md R164), for a callsign of at most 6 printable bytes and an SSID of at most 15. -/
def encodeAddress (call : List Byte) (ssid : Nat) (last : Bool) : List Byte :=
  (paddedCall call).map (fun c : Byte => c <<< 1) ++ [ssidByte ssid last]

/-- ADDR_ENC (41_address_encoder.md R165). -/
def execAddrEnc (ssid : Nat) (last : Bool) (s : State) : Host.Outcome State Fault Refusal :=
  let a := s.cmdArgs
  command s [(decide (6 < a.n1), .callLen), (decide (15 < ssid), .ssid)] [byteRegion a.n0 a.n1] [byteRegion a.n2 7]
    (s.lmem.readBytes a.n0 a.n1) fun call =>
      if call.all printable then .ok ((s.store a.n2 (encodeAddress call ssid last)).setResult 7)
      else .error .callChar

end Sys2Proof.Machine
end

