-- ==== Sys2Proof/Machine/Crc.lean ====
section
/-!
DEFINITION. NOP (40_common.md R144) and the CRC engine (42_crc.md).
-/

namespace Sys2Proof.Machine

/-- One conditional shift: the bit tested is bit 0 before the shift; the polynomial is 0x8408 (42_crc.md R176). -/
def crcShift (c : Half) : Half := if c.getLsbD 0 then (c >>> 1) ^^^ 0x8408#16 else c >>> 1

/-- `n` conditional shifts. -/
def crcShifts : Nat → Half → Half
  | 0, c => c
  | n + 1, c => crcShifts n (crcShift c)

/-- `CrcStep` (42_crc.md R176): the byte is XORed into the low byte, then eight conditional shifts. -/
def crcStep (crc : Half) (b : Byte) : Half := crcShifts 8 (crc ^^^ b.setWidth 16)

/-- `CrcFold` over a byte sequence (42_crc.md R177). -/
def crcFold : Half → List Byte → Half
  | crc, [] => crc
  | crc, b :: t => crcFold (crcStep crc b) t

/-- The frame-check value of a register value: the final XOR (42_crc.md R177). -/
def crcFinal (crc : Half) : Half := crc ^^^ 0xFFFF#16

/-- `FCS(s)` (42_crc.md R177). -/
def fcs (s : List Byte) : Half := crcFinal (crcFold 0xFFFF#16 s)

/-- NOP (40_common.md R144): no effect. -/
def execNop (s : State) : Host.Outcome State Fault Refusal := .next s.succeed

/-- CRC_INIT (42_crc.md R178). -/
def execCrcInit (s : State) : Host.Outcome State Fault Refusal :=
  .next ((s.setCrc 0xFFFF).setResult 0x0000FFFF).succeed

/-- CRC_BYTE (42_crc.md R179). -/
def execCrcByte (val : Byte) (s : State) : Host.Outcome State Fault Refusal :=
  let crc := crcStep s.units.crc val
  .next ((s.setCrc crc).setResult (crc.setWidth 32)).succeed

/-- CRC_FINAL (42_crc.md R180). -/
def execCrcFinal (s : State) : Host.Outcome State Fault Refusal :=
  .next (s.setResult ((crcFinal s.units.crc).setWidth 32)).succeed

/-- CRC_BUF (42_crc.md R181): continues from the CRC register. -/
def execCrcBuf (s : State) : Host.Outcome State Fault Refusal :=
  let a := s.cmdArgs
  command s [] [byteRegion a.n0 a.n1] [] (s.lmem.readBytes a.n0 a.n1) fun bytes =>
    let crc := crcFold s.units.crc bytes
    .ok ((s.setCrc crc).setResult ((crcFinal crc).setWidth 32))

end Sys2Proof.Machine
end

