-- ==== Sys2Proof/Machine/Frame.lean ====
section
/-!
DEFINITION. The frame assembler (43_frame_builder.md).
-/

namespace Sys2Proof.Machine

/-- What an 8-byte address descriptor says (43_frame_builder.md R192). -/
structure Descriptor where
  call : List Byte
  ssid : Byte
  deriving DecidableEq, Repr

/-- The descriptors of a table of `n` descriptors (43_frame_builder.md R192): the callsign is the bytes before the first 0x00 of
bytes 0 to 5, the SSID is byte 6, byte 7 is ignored. -/
def descriptors : Nat → List Byte → List Descriptor
  | n + 1, c0 :: c1 :: c2 :: c3 :: c4 :: c5 :: ssid :: _ :: rest =>
    { call := [c0, c1, c2, c3, c4, c5].takeWhile (· != 0#8), ssid := ssid } :: descriptors n rest
  | _, _ => []

/-- The content check of one descriptor: the character check comes before the SSID check (43_frame_builder.md R194). -/
def descriptorError (d : Descriptor) : Option ErrCode :=
  firstFailing [(!d.call.all printable, .callChar), (decide (15#8 < d.ssid), .ssid)]

/-- The content check of a table: the first failing descriptor decides the error (43_frame_builder.md R194). -/
def tableError : List Descriptor → Option ErrCode
  | [] => none
  | d :: ds =>
    match descriptorError d with
    | some code => some code
    | none => tableError ds

/-- The address field: every descriptor encoded in order, the last one flagged "is last" (43_frame_builder.md R194, R195). -/
def addressField : List Descriptor → List Byte
  | [] => []
  | [d] => encodeAddress d.call d.ssid.toNat true
  | d :: d' :: ds => encodeAddress d.call d.ssid.toNat false ++ addressField (d' :: ds)

/-- The frame before its FCS: addresses, control byte, protocol-ID byte, payload (43_frame_builder.md R191, R194). -/
def frameBody (ds : List Descriptor) (payload : List Byte) : List Byte :=
  addressField ds ++ [0x03#8, 0xF0#8] ++ payload

/-- A body with its FCS appended, low byte first (43_frame_builder.md R193). -/
def withFcs (body : List Byte) : List Byte :=
  body ++ [(fcs body).extractLsb' 0 8, (fcs body).extractLsb' 8 8]

/-- `NADDR = 2 + K` (43_frame_builder.md R194). -/
def addressCount (ndigi : Nat) : Nat := 2 + ndigi

/-- `FLEN = 7·NADDR + 4 + A[2]` (43_frame_builder.md R194). -/
def frameLength (ndigi payloadLen : Nat) : Nat := 7 * addressCount ndigi + 4 + payloadLen

/-- The bytes of the descriptor table and of the payload, both read whole (43_frame_builder.md R194; log 6). -/
def Memory.readTwo (m : Memory) (b n b' n' : Nat) : Option (List Byte × List Byte) :=
  match m.readBytes b n, m.readBytes b' n' with
  | some x, some y => some (x, y)
  | _, _ => none

/-- FRAME_BUILD (43_frame_builder.md R194). -/
def execFrameBuild (ndigi : Nat) (s : State) : Host.Outcome State Fault Refusal :=
  let a := s.cmdArgs
  let tableLen := 8 * addressCount ndigi
  let flen := frameLength ndigi a.n2
  command s [] [byteRegion a.n0 tableLen, byteRegion a.n1 a.n2] [byteRegion a.n3 flen]
    (s.lmem.readTwo a.n0 tableLen a.n1 a.n2) fun input =>
      let ds := descriptors (addressCount ndigi) input.1
      match tableError ds with
      | some code => .error code
      | none =>
        let body := frameBody ds input.2
        .ok (((s.store a.n3 (withFcs body)).setCrc (crcFold 0xFFFF#16 body)).setResult (BitVec.ofNat 32 flen))

end Sys2Proof.Machine
end

