-- ==== Sys2Proof/Machine/Sine.lean ====
section
/-!
DEFINITION. The sine lookup table, a constant ROM (45_sine_lut.md).
-/

namespace Sys2Proof.Machine

/-- Entries 0 to 63, four rows of the table of 45_sine_lut.md R242. -/
def sineQuarter0 : List Int :=
  [0, 804, 1608, 2410, 3212, 4011, 4808, 5602, 6393, 7179, 7962, 8739, 9512, 10278, 11039, 11793]
    ++ [12539, 13279, 14010, 14732, 15446, 16151, 16846, 17530, 18204, 18868, 19519, 20159, 20787, 21403, 22005, 22594]
    ++ [23170, 23731, 24279, 24811, 25329, 25832, 26319, 26790, 27245, 27683, 28105, 28510, 28898, 29268, 29621, 29956]
    ++ [30273, 30571, 30852, 31113, 31356, 31580, 31785, 31971, 32137, 32285, 32412, 32521, 32609, 32678, 32728, 32757]

/-- Entries 64 to 127, four rows of the table of 45_sine_lut.md R242. -/
def sineQuarter1 : List Int :=
  [32767, 32757, 32728, 32678, 32609, 32521, 32412, 32285, 32137, 31971, 31785, 31580, 31356, 31113, 30852, 30571]
    ++ [30273, 29956, 29621, 29268, 28898, 28510, 28105, 27683, 27245, 26790, 26319, 25832, 25329, 24811, 24279, 23731]
    ++ [23170, 22594, 22005, 21403, 20787, 20159, 19519, 18868, 18204, 17530, 16846, 16151, 15446, 14732, 14010, 13279]
    ++ [12539, 11793, 11039, 10278, 9512, 8739, 7962, 7179, 6393, 5602, 4808, 4011, 3212, 2410, 1608, 804]

/-- Entries 128 to 191, four rows of the table of 45_sine_lut.md R242. -/
def sineQuarter2 : List Int :=
  [0, -804, -1608, -2410, -3212, -4011, -4808, -5602, -6393, -7179, -7962, -8739, -9512, -10278, -11039, -11793]
    ++ [-12539, -13279, -14010, -14732, -15446, -16151, -16846, -17530, -18204, -18868, -19519, -20159, -20787, -21403, -22005, -22594]
    ++ [-23170, -23731, -24279, -24811, -25329, -25832, -26319, -26790, -27245, -27683, -28105, -28510, -28898, -29268, -29621, -29956]
    ++ [-30273, -30571, -30852, -31113, -31356, -31580, -31785, -31971, -32137, -32285, -32412, -32521, -32609, -32678, -32728, -32757]

/-- Entries 192 to 255, four rows of the table of 45_sine_lut.md R242. -/
def sineQuarter3 : List Int :=
  [-32767, -32757, -32728, -32678, -32609, -32521, -32412, -32285, -32137, -31971, -31785, -31580, -31356, -31113, -30852, -30571]
    ++ [-30273, -29956, -29621, -29268, -28898, -28510, -28105, -27683, -27245, -26790, -26319, -25832, -25329, -24811, -24279, -23731]
    ++ [-23170, -22594, -22005, -21403, -20787, -20159, -19519, -18868, -18204, -17530, -16846, -16151, -15446, -14732, -14010, -13279]
    ++ [-12539, -11793, -11039, -10278, -9512, -8739, -7962, -7179, -6393, -5602, -4808, -4011, -3212, -2410, -1608, -804]

theorem sineQuarter0_length : sineQuarter0.length = 64 := by decide

theorem sineQuarter1_length : sineQuarter1.length = 64 := by decide

theorem sineQuarter2_length : sineQuarter2.length = 64 := by decide

theorem sineQuarter3_length : sineQuarter3.length = 64 := by decide

/-- The 256 entries (45_sine_lut.md R242). -/
def sineTable : List Int := sineQuarter0 ++ sineQuarter1 ++ sineQuarter2 ++ sineQuarter3

/-- The table has 256 entries (45_sine_lut.md R241). -/
theorem sineTable_length : sineTable.length = 256 := by
  simp [sineTable, sineQuarter0_length, sineQuarter1_length, sineQuarter2_length, sineQuarter3_length]

/-- `LUT[i]` as a signed 16-bit value (45_sine_lut.md R241, R242). -/
def lut (i : Byte) : Half := BitVec.ofInt 16 (sineTable[i.toNat]'(by rw [sineTable_length]; exact i.isLt))

/-- LUT_READ (45_sine_lut.md R244): the entry, sign-extended. -/
def execLutRead (index : Byte) (s : State) : Host.Outcome State Fault Refusal :=
  .next (s.setResult ((lut index).signExtend 32)).succeed

end Sys2Proof.Machine
end

