-- ==== Sys2Proof/Machine/Synth.lean ====
section
/-!
DEFINITION. The dual-tone synthesizer, exact and naive (46_tone_synth.md).
-/

namespace Sys2Proof.Machine

/-! ### Configuration and steps -/

/-- `BitStep(BR, SR)` (46_tone_synth.md R254). -/
def bitStepOf (bitRate sampleRate : Nat) : Nat := bitRate * 2 ^ 16 / sampleRate

/-- `Spb(SR, BR)` (46_tone_synth.md R255). -/
def spbOf (sampleRate bitRate : Nat) : Nat := sampleRate / bitRate

/-- `ToneStep(f, SR)` (46_tone_synth.md R253), reduced modulo 2^32. -/
def toneStepOf (freq sampleRate : Nat) : Word := BitVec.ofNat 32 (freq * 256 * 2 ^ 16 / sampleRate)

/-- `ConfigOK` of the synthesis commands (46_tone_synth.md R251). -/
def synthConfigOk (c : Cfg) : Bool :=
  decide (1 ≤ c.sampleRate.toNat) && decide (1 ≤ c.bitRate.toNat) && decide (c.bitRate.toNat ≤ c.sampleRate.toNat) &&
    decide (1 ≤ bitStepOf c.bitRate.toNat c.sampleRate.toNat)

/-- The configuration check of the synthesis commands (46_tone_synth.md R251). -/
def synthChecks (c : Cfg) : List (Bool × ErrCode) := [(!synthConfigOk c, .config)]

/-- MARK_STEP for a configuration (46_tone_synth.md R253). -/
def Cfg.markStep (c : Cfg) : Word := toneStepOf c.markFreq.toNat c.sampleRate.toNat

/-- SPACE_STEP for a configuration (46_tone_synth.md R253). -/
def Cfg.spaceStep (c : Cfg) : Word := toneStepOf c.spaceFreq.toNat c.sampleRate.toNat

/-- BIT_STEP for a configuration (46_tone_synth.md R254). -/
def Cfg.bitStep (c : Cfg) : Nat := bitStepOf c.bitRate.toNat c.sampleRate.toNat

/-- SPB for a configuration (46_tone_synth.md R255). -/
def Cfg.spb (c : Cfg) : Nat := spbOf c.sampleRate.toNat c.bitRate.toNat

/-- Writes the four step registers for a configuration (46_tone_synth.md R256, R262). -/
def State.prepare (s : State) (c : Cfg) : State := s.setSteps c.markStep c.spaceStep c.bitStep c.spb

/-! ### The two algorithms -/

/-- The table index of a tone accumulator, bits 23:16 (46_tone_synth.md R257). -/
def tableIndex (acc : Word) : Byte := acc.extractLsb' 16 8

/-- The step of the tone for a bit: mark if it is 1, space if it is 0 (46_tone_synth.md R258). -/
def toneFor (mark space : Word) (b : Bool) : Word := if b then mark else space

/-- The step after a bit boundary: that of the next bit, or the old one when the input is exhausted
(46_tone_synth.md R258). -/
def nextStep (mark space step : Word) : Bits → Word
  | [] => step
  | b :: _ => toneFor mark space b

/-- The loop of `SynthExact` (46_tone_synth.md R258) for a number of samples still to come. `rest` holds the input bits after the
active one, `step` the active tone step, `ta` and `ba` the accumulators: a sample is read first, then both advance. -/
def exactLoop (mark space : Word) (bs : Nat) : Nat → Bits → Word → Word → Nat → List Half × Word × Nat
  | 0, _, _, ta, ba => ([], ta, ba)
  | n + 1, rest, step, ta, ba =>
    let tail :=
      if 2 ^ 16 ≤ ba + bs then
        exactLoop mark space bs n rest.tail (nextStep mark space step rest) (ta + step) (ba + bs - 2 ^ 16)
      else exactLoop mark space bs n rest step (ta + step) (ba + bs)
    (lut (tableIndex ta) :: tail.1, tail.2)

/-- `SynthExact` (46_tone_synth.md R258): both accumulators start at 0, the first bit is active from the start; no bits, no
samples. Answers the samples and the final accumulators. -/
def synthExact (mark space : Word) (bs samples : Nat) : Bits → List Half × Word × Nat
  | [] => ([], 0, 0)
  | b :: rest => exactLoop mark space bs samples rest (toneFor mark space b) 0 0

/-- `n` samples of one tone, from an accumulator; answers the samples and the accumulator after them
(46_tone_synth.md R260). -/
def toneRun (step : Word) : Nat → Word → List Half × Word
  | 0, ta => ([], ta)
  | n + 1, ta => (lut (tableIndex ta) :: (toneRun step n (ta + step)).1, (toneRun step n (ta + step)).2)

/-- The loop of `SynthNaive` (46_tone_synth.md R260): `spb` samples for each bit, the accumulator carried across bits. -/
def naiveLoop (mark space : Word) (spb : Nat) : Bits → Word → List Half × Word
  | [], ta => ([], ta)
  | b :: rest, ta =>
    let run := toneRun (toneFor mark space b) spb ta
    let tail := naiveLoop mark space spb rest run.2
    (run.1 ++ tail.1, tail.2)

/-- `SynthNaive` (46_tone_synth.md R260): the accumulator starts at 0. -/
def synthNaive (mark space : Word) (spb : Nat) (bits : Bits) : List Half × Word := naiveLoop mark space spb bits 0

/-- `Lexact(N)` (46_tone_synth.md R261). -/
def exactLength (c : Cfg) (n : Nat) : Nat := n * c.sampleRate.toNat / c.bitRate.toNat

/-- `Lnaive(N)` (46_tone_synth.md R261). -/
def naiveLength (c : Cfg) (n : Nat) : Nat := n * c.spb

/-- The number of samples for N bits in the mode of the configuration (46_tone_synth.md R262). -/
def sampleCount (c : Cfg) (n : Nat) : Nat := if c.synthMode then naiveLength c n else exactLength c n

/-- The samples, the tone accumulator and the bit accumulator that SYNTH leaves; in naive mode the bit accumulator is 0
(46_tone_synth.md R262). -/
def synthesized (c : Cfg) (bits : Bits) : List Half × Word × Nat :=
  if c.synthMode then
    let o := synthNaive c.markStep c.spaceStep c.spb bits
    (o.1, o.2, 0)
  else synthExact c.markStep c.spaceStep c.bitStep (exactLength c bits.length) bits

/-! ### The commands -/

/-- SYNTH_PREP (46_tone_synth.md R256). -/
def execSynthPrep (s : State) : Host.Outcome State Fault Refusal :=
  let c := s.cmdCfg
  command s (synthChecks c) [] [] (some ()) fun _ => .ok ((s.prepare c).setResult (BitVec.ofNat 32 c.spb))

/-- SYNTH (46_tone_synth.md R262). -/
def execSynth (s : State) : Host.Outcome State Fault Refusal :=
  let a := s.cmdArgs
  let c := s.cmdCfg
  command s (synthChecks c) [bitRegion a.n0 a.n1] [sampleRegion a.n2 a.n3] (s.lmem.readBits a.n0 a.n1) fun bits =>
    let o := synthesized c bits
    let count := sampleCount c a.n1
    withCapacity count a.n3
      ((((s.store a.n2 (packSamples o.1)).setAccs o.2.1 o.2.2).prepare c).setResult (BitVec.ofNat 32 count))

end Sys2Proof.Machine
end

