-- ==== Sys2Proof/Machine/Dispatch.lean ====
section
/-!
DEFINITION. The completion of a decoded command: one arm per constructor of Instr, each one call of its meaning.
-/

namespace Sys2Proof.Machine

def exec (i : Instr) (s : State) : Host.Outcome State Fault Refusal :=
  match i with
  | .nop => Sys2Proof.Machine.execNop s
  | .crcInit => Sys2Proof.Machine.execCrcInit s
  | .crcByte val => Sys2Proof.Machine.execCrcByte val s
  | .crcFinal => Sys2Proof.Machine.execCrcFinal s
  | .crcBuf => Sys2Proof.Machine.execCrcBuf s
  | .addrEnc ssid last => Sys2Proof.Machine.execAddrEnc ssid last s
  | .frameBuild ndigi => Sys2Proof.Machine.execFrameBuild ndigi s
  | .stuffReset => Sys2Proof.Machine.execStuffReset s
  | .stuffBit bit => Sys2Proof.Machine.execStuffBit bit s
  | .stuffBuf => Sys2Proof.Machine.execStuffBuf s
  | .frameWrap => Sys2Proof.Machine.execFrameWrap s
  | .nrziSet bit => Sys2Proof.Machine.execNrziSet bit s
  | .nrziBit bit => Sys2Proof.Machine.execNrziBit bit s
  | .nrziBuf => Sys2Proof.Machine.execNrziBuf s
  | .lineEncode => Sys2Proof.Machine.execLineEncode s
  | .lutRead index => Sys2Proof.Machine.execLutRead index s
  | .synthPrep => Sys2Proof.Machine.execSynthPrep s
  | .synth => Sys2Proof.Machine.execSynth s

end Sys2Proof.Machine
end

