-- ==== Sys2Proof/Machine/HostPort.lean ====
section
/-!
DEFINITION. The host port: the register map, the LMEM window, and what a host read or write does (10_state.md R23 to R46,
20_memory.md R71 to R90).
-/

namespace Sys2Proof.Machine

/-- The registers of the map of 10_state.md R23. -/
inductive Reg where
  | cmd | status | result | id | a0 | a1 | a2 | a3
  | sampleRate | bitRate | markFreq | spaceFreq | frameCfg
  | crc | onesCnt | lineState | toneAcc | bitAcc | markStep | spaceStep | bitStep | spb | lmemSize
  /-- A reserved offset: reads 0, ignores writes (10_state.md R46). -/
  | reserved
  deriving DecidableEq, Repr

/-- The register at a word offset below 0x100 (10_state.md R23, R46). -/
def regAt (offset : Nat) : Reg :=
  match offset with
  | 0x00 => .cmd
  | 0x04 => .status
  | 0x08 => .result
  | 0x0C => .id
  | 0x10 => .a0
  | 0x14 => .a1
  | 0x18 => .a2
  | 0x1C => .a3
  | 0x20 => .sampleRate
  | 0x24 => .bitRate
  | 0x28 => .markFreq
  | 0x2C => .spaceFreq
  | 0x30 => .frameCfg
  | 0x40 => .crc
  | 0x44 => .onesCnt
  | 0x48 => .lineState
  | 0x4C => .toneAcc
  | 0x50 => .bitAcc
  | 0x54 => .markStep
  | 0x58 => .spaceStep
  | 0x5C => .bitStep
  | 0x60 => .spb
  | 0x64 => .lmemSize
  | _ => .reserved

/-- The constant of the ID register (10_state.md R27). -/
def idValue : Word := 0x41465337

/-- What a register holds, as a 32-bit word (10_state.md R23 to R46). CMD stores nothing and reads 0 (R25). -/
def State.regValue (s : State) : Reg → Word
  | .cmd => 0
  | .status => s.status
  | .result => s.result
  | .id => idValue
  | .a0 => s.args.a0
  | .a1 => s.args.a1
  | .a2 => s.args.a2
  | .a3 => s.args.a3
  | .sampleRate => s.cfg.sampleRate
  | .bitRate => s.cfg.bitRate
  | .markFreq => s.cfg.markFreq
  | .spaceFreq => s.cfg.spaceFreq
  | .frameCfg => frameCfgStored s.cfg.frameCfg
  | .crc => s.units.crc.setWidth 32
  | .onesCnt => s.units.onesCnt.setWidth 32
  | .lineState => (BitVec.ofBool s.units.lineState).setWidth 32
  | .toneAcc => s.units.toneAcc
  | .bitAcc => s.units.bitAcc
  | .markStep => s.units.markStep
  | .spaceStep => s.units.spaceStep
  | .bitStep => s.units.bitStep
  | .spb => s.units.spb
  | .lmemSize => BitVec.ofNat 32 s.lmemSize
  | .reserved => 0

/-- The registers whose read is unspecified while STATUS.BUSY = 1: RESULT and the unit state (10_state.md R52). -/
def Reg.unspecifiedWhileBusy : Reg → Bool
  | .result | .crc | .onesCnt | .lineState | .toneAcc | .bitAcc | .markStep | .spaceStep | .bitStep | .spb => true
  | .cmd | .status | .id | .a0 | .a1 | .a2 | .a3 | .sampleRate | .bitRate | .markFreq | .spaceFreq | .frameCfg | .lmemSize
  | .reserved => false

/-- A host read of a register: the value it holds, or a free value (10_state.md R52). No side effect on the block
(20_memory.md R81). -/
def readReg (r : Reg) (s : State) : State :=
  if s.busy && r.unspecifiedWhileBusy then s.giveUnspecified else s.giveData (s.regValue r)

/-- A write that is accepted only while BUSY = 0; while BUSY = 1 it is ignored and sets OVR (10_state.md R34). -/
def whenIdle (s t : State) : State := if s.busy then s.setOvr else t

/-- A host write of a register (10_state.md R24 to R34, R46): CMD issues a command, STATUS clears its sticky bits, A0 to A3 and
the configuration store the value, every other register ignores the write. -/
def writeReg (r : Reg) (v : Word) (s : State) : State :=
  match r with
  | .cmd => whenIdle s (s.issue v)
  | .status => s.clearSticky v
  | .a0 => whenIdle s (s.setArgs { s.args with a0 := v })
  | .a1 => whenIdle s (s.setArgs { s.args with a1 := v })
  | .a2 => whenIdle s (s.setArgs { s.args with a2 := v })
  | .a3 => whenIdle s (s.setArgs { s.args with a3 := v })
  | .sampleRate => whenIdle s (s.setCfg { s.cfg with sampleRate := v })
  | .bitRate => whenIdle s (s.setCfg { s.cfg with bitRate := v })
  | .markFreq => whenIdle s (s.setCfg { s.cfg with markFreq := v })
  | .spaceFreq => whenIdle s (s.setCfg { s.cfg with spaceFreq := v })
  | .frameCfg => whenIdle s (s.setCfg { s.cfg with frameCfg := frameCfgStored v })
  | .result | .id | .crc | .onesCnt | .lineState | .toneAcc | .bitAcc | .markStep | .spaceStep | .bitStep | .spb | .lmemSize
  | .reserved => s

/-- Where an access goes (20_memory.md R73 to R75). -/
inductive Target where
  | reg (r : Reg)
  | lmem (a : Nat)
  | busError
  deriving DecidableEq, Repr

/-- The width and alignment rule of the LMEM window: 1, 2 or 4 bytes, naturally aligned (20_memory.md R75). -/
def windowAccessOk (a width : Nat) : Bool :=
  (width == 1 || width == 2 || width == 4) && a % width == 0

/-- The host-port map (20_memory.md R73) with the access rules of R74 and R75. -/
def target (size offset width : Nat) : Target :=
  if offset < 0x100 then
    if width = 4 ∧ offset % 4 = 0 then .reg (regAt offset) else .busError
  else if offset < 0x800000 then .busError
  else if windowAccessOk (offset - 0x800000) width = true ∧ offset - 0x800000 + width ≤ size then
    .lmem (offset - 0x800000)
  else .busError

/-- A host read (20_memory.md R74, R75, R79, R89, R90; log 7). LMEM data is little-endian. -/
def hostRead (offset : BitVec 24) (width : Nat) (s : State) : Host.Outcome State Fault Refusal :=
  match target s.lmemSize offset.toNat width with
  | .busError => .fault .busError
  | .reg r => .next (readReg r s)
  | .lmem a =>
    if s.busy then .fault .hostLmemWhileBusy
    else
      match s.lmem.readBytes a width with
      | none => .fault .hostReadUnwritten
      | some bytes => .next (s.giveData (BitVec.ofNat 32 (littleEndian bytes)))

/-- A host write (20_memory.md R74, R75, R79, R89; log 7). LMEM data is little-endian. -/
def hostWrite (offset : BitVec 24) (width : Nat) (value : Word) (s : State) : Host.Outcome State Fault Refusal :=
  match target s.lmemSize offset.toNat width with
  | .busError => .fault .busError
  | .reg r => .next (writeReg r value s)
  | .lmem a =>
    if s.busy then .fault .hostLmemWhileBusy
    else .next (s.store a (bytesOfValue width value.toNat))

end Sys2Proof.Machine
end

