-- ==== Sys2Proof/Machine/Engine.lean ====
section
/-!
DEFINITION. The ENGINE's completion step and what each event does (40_common.md R135, 20_memory.md R84).
-/

namespace Sys2Proof.Machine

/-- The error code of a word that is no command (30_encoding.md R107, R108). -/
def decodeErrCode : DecodeError → ErrCode
  | .opcode => .opcode
  | .field => .field

/-- Completion of a command word: step 1 of `Exec` decodes it (40_common.md R136); an illegal word completes with its code and
no other effect (30_encoding.md R107, R108). -/
def complete (w : Word) (s : State) : Host.Outcome State Fault Refusal :=
  match decode w with
  | .error e => .next (s.fail (decodeErrCode e))
  | .ok i => exec i s

/-- The ENGINE's turn: it completes the latched command; with none latched it has no enabled step and nothing changes
(40_common.md R135; log 9). -/
def engineTurn (s : State) : Host.Outcome State Fault Refusal :=
  match s.latched with
  | none => .next s
  | some c => complete c.word s

/-- What an event does. -/
def runEvent (e : Event) (s : State) : Host.Outcome State Fault Refusal :=
  match e with
  | .engine => engineTurn s
  | .read offset width => hostRead offset width s
  | .write offset width value => hostWrite offset width value s
  | .reset => .next s.applyReset

/-- The state with its first scheduled event taken off. -/
def State.popEvent (s : State) : State := { s with schedule := s.schedule.tail }

/-- The next event: the first of the schedule; with nothing scheduled the ENGINE has its turn, so that a latched command
completes (40_common.md R135; log 2, log 10). -/
def State.nextEvent (s : State) : Event :=
  match s.schedule with
  | [] => .engine
  | e :: _ => e

/-- A command placed where the very next step completes it: the word latched as an accepted CMD write latches it
(40_common.md R132, R133), and the ENGINE's turn next (log 12). -/
def State.placeCommand (s : State) (w : Word) : State := { s.issue w with schedule := .engine :: s.schedule }

end Sys2Proof.Machine
end

