-- ==== Sys2Proof/Machine/Step.lean ====
section
/-!
DEFINITION. One step of the block: the next event happens.
-/

namespace Sys2Proof.Machine

/-- One step: the next event happens in the state whose schedule holds the events after it. -/
def step (s : State) : Host.Outcome State Fault Refusal := runEvent s.nextEvent s.popEvent

/-- `s` with the command whose bits are `w` (numbered as spec/opcode_table.json numbers them) placed so that the next step runs
it (log 12). -/
def State.withFetchWord (s : State) (nbits w : Nat) : State := s.placeCommand (BitVec.ofNat 32 (w % 2 ^ nbits))

end Sys2Proof.Machine
end

