-- ==== Sys2Proof/Machine/HostOps.lean ====
section
/-!
DEFINITION. The assembler of 30_encoding.md R110, and the host operations and pseudo-commands of R111 and R112, as the events they
stand for in a schedule. A line with an operand outside its field's width is an assembly error, `none`: it stands for no events.
-/

namespace Sys2Proof.Machine

/-! ### Assembling a command (30_encoding.md R110) -/

/-- Syntax `MNEMONIC val`: 0..255. -/
def assembleB8 (f : Byte → Instr) (val : Nat) : Option Instr := if val < 256 then some (f (BitVec.ofNat 8 val)) else none

/-- Syntax `MNEMONIC bit`: 0 or 1. -/
def assembleB1 (f : Bool → Instr) (bit : Nat) : Option Instr := if bit < 2 then some (f (bit == 1)) else none

/-- A command from its mnemonic and its immediate operands, as numbers, in the order that the syntax of R110 writes them; `none` is
an assembly error: an operand outside its field's width, or no line of the syntax. -/
def assemble (mnemonic : String) (operands : List Nat) : Option Instr :=
  match mnemonic, operands with
  | "NOP", [] => some .nop
  | "CRC_INIT", [] => some .crcInit
  | "CRC_BYTE", [val] => assembleB8 .crcByte val
  | "CRC_FINAL", [] => some .crcFinal
  | "CRC_BUF", [] => some .crcBuf
  | "ADDR_ENC", [ssid, last] => if ssid < 256 then assembleB1 (.addrEnc ssid) last else none
  | "FRAME_BUILD", [ndigi] => if ndigi < 16 then some (.frameBuild ndigi) else none
  | "STUFF_RESET", [] => some .stuffReset
  | "STUFF_BIT", [bit] => assembleB1 .stuffBit bit
  | "STUFF_BUF", [] => some .stuffBuf
  | "FRAME_WRAP", [] => some .frameWrap
  | "NRZI_SET", [bit] => assembleB1 .nrziSet bit
  | "NRZI_BIT", [bit] => assembleB1 .nrziBit bit
  | "NRZI_BUF", [] => some .nrziBuf
  | "LINE_ENCODE", [] => some .lineEncode
  | "LUT_READ", [index] => assembleB8 .lutRead index
  | "SYNTH_PREP", [] => some .synthPrep
  | "SYNTH", [] => some .synth
  | _, _ => none

/-- The word of a command, or an assembly error when an operand does not fit its field (30_encoding.md R110). -/
def assembledWord (i : Instr) : Option Word := if i.wellFormed then some (encode i) else none

/-! ### Host programs (30_encoding.md R111, R112) -/

/-- The offset of a register (10_state.md R23); a reserved one stands at the first reserved offset (R46). -/
def offsetOf : Reg → BitVec 24
  | .cmd => 0x00
  | .status => 0x04
  | .result => 0x08
  | .id => 0x0C
  | .a0 => 0x10
  | .a1 => 0x14
  | .a2 => 0x18
  | .a3 => 0x1C
  | .sampleRate => 0x20
  | .bitRate => 0x24
  | .markFreq => 0x28
  | .spaceFreq => 0x2C
  | .frameCfg => 0x30
  | .reserved => 0x34
  | .crc => 0x40
  | .onesCnt => 0x44
  | .lineState => 0x48
  | .toneAcc => 0x4C
  | .bitAcc => 0x50
  | .markStep => 0x54
  | .spaceStep => 0x58
  | .bitStep => 0x5C
  | .spb => 0x60
  | .lmemSize => 0x64

/-- The host offset of an LMEM address, `0x800000 + a` (20_memory.md R73, 30_encoding.md R111). DESIGN CHOICE, safe (log 23): for an
address of 2^23 or more that offset does not fit the 24-bit port, and the spec gives the access none; the model gives it the unmapped
offset 0x000100, so that it is a bus error at every width and never wraps to another target. -/
def windowOffset (a : Nat) : BitVec 24 := if a < 2 ^ 23 then BitVec.ofNat 24 (0x800000 + a) else 0x000100

/-- One line of a host program (30_encoding.md R111). -/
inductive HostOp where
  /-- `wr REG, v`. -/
  | wr (r : Reg) (v : Word)
  /-- `rd REG`. -/
  | rd (r : Reg)
  /-- `wrb a, v`. -/
  | wrb (a : Nat) (v : Word)
  /-- `wrh a, v`. -/
  | wrh (a : Nat) (v : Word)
  /-- `wrw a, v`. -/
  | wrw (a : Nat) (v : Word)
  /-- `rdb a`. -/
  | rdb (a : Nat)
  /-- `rdh a`. -/
  | rdh (a : Nat)
  /-- `rdw a`. -/
  | rdw (a : Nat)
  /-- `wrs a, "text"`, the text as its bytes. -/
  | wrs (a : Nat) (text : List Byte)
  /-- `poll`. -/
  | poll
  /-- A command mnemonic on a line by itself. -/
  | cmd (i : Instr)
  deriving DecidableEq, Repr

/-- The byte writes of `wrs` (30_encoding.md R111). -/
def writeTextEvents : Nat → List Byte → List Event
  | _, [] => []
  | a, b :: t => .write (windowOffset a) 1 (b.setWidth 32) :: writeTextEvents (a + 1) t

/-- `poll`: STATUS is read until BUSY reads 0 (30_encoding.md R111). Of its interleavings this is the one in which the ENGINE's turn
comes before the first read, which therefore is the last one (log 22). -/
def pollEvents : List Event := [.engine, .read 0x04 4]

/-- The events of a line of a host program (30_encoding.md R111); a command line is `wr CMD, word` followed by `poll`. A command
that does not assemble is no line: `none` (R110). -/
def HostOp.events : HostOp → Option (List Event)
  | .wr r v => some [.write (offsetOf r) 4 v]
  | .rd r => some [.read (offsetOf r) 4]
  | .wrb a v => some [.write (windowOffset a) 1 v]
  | .wrh a v => some [.write (windowOffset a) 2 v]
  | .wrw a v => some [.write (windowOffset a) 4 v]
  | .rdb a => some [.read (windowOffset a) 1]
  | .rdh a => some [.read (windowOffset a) 2]
  | .rdw a => some [.read (windowOffset a) 4]
  | .wrs a text => some (writeTextEvents a text)
  | .poll => some pollEvents
  | .cmd i => (assembledWord i).map fun w => .write 0x00 4 w :: pollEvents

/-- `FCS16 a, n` (30_encoding.md R112). -/
def fcs16 (a n : Word) : List HostOp := [.wr .a0 a, .wr .a1 n, .cmd .crcInit, .cmd .crcBuf]

/-- The four argument writes shared by the other pseudo-commands. -/
def writeArgs (a b c d : Word) : List HostOp := [.wr .a0 a, .wr .a1 b, .wr .a2 c, .wr .a3 d]

/-- `AX25_FRAME d, p, n, o, k` (30_encoding.md R112). -/
def ax25Frame (d p n o : Word) (k : Nat) : List HostOp := writeArgs d p n o ++ [.cmd (.frameBuild k)]

/-- `LINE a, n, o, cap` (30_encoding.md R112). -/
def line (a n o cap : Word) : List HostOp := writeArgs a n o cap ++ [.cmd .lineEncode]

/-- `TONES a, n, o, cap` (30_encoding.md R112). -/
def tones (a n o cap : Word) : List HostOp := writeArgs a n o cap ++ [.cmd .synth]

/-- The schedule of a host program; `none` when one of its lines is an assembly error (30_encoding.md R110). -/
def scheduleOf : List HostOp → Option (List Event)
  | [] => some []
  | op :: rest =>
    match op.events, scheduleOf rest with
    | some e, some r => some (e ++ r)
    | _, _ => none

end Sys2Proof.Machine
end

