-- ==== Sys2Proof/Safety.lean ====
section
/-!
DEFINITION. What the spec says holds at every command boundary, what a safe step is, and the terms the claims are written in: the
spec's own tables (reserved bits, each command's checks and regions, which command writes which register) and the inverse
functions its laws name.
-/

namespace Sys2Proof.Machine

/-- The invariant of the block: what the spec says of its registers and memory at every boundary between steps. -/
structure State.Inv (s : State) : Prop where
  /-- LMEM is in canonical form. -/
  lmem_wf : s.lmem.wf
  /-- LMEM holds bytes at addresses below LMEM_SIZE only (20_memory.md R71). -/
  lmem_bound : ∀ cell ∈ s.lmem, cell.1 < s.lmemSize
  /-- LMEM_SIZE is a legal size (00_scope.md R9). -/
  size_min : Config.lmemSizeMin ≤ s.lmemSize
  /-- LMEM_SIZE is a legal size (00_scope.md R9). -/
  size_max : s.lmemSize ≤ Config.lmemSizeMax
  /-- ONES_CNT is in 0..4 (10_state.md R37). -/
  ones_le : s.units.onesCnt.toNat ≤ 4
  /-- BIT_ACC is below 2^16 (10_state.md R40). -/
  bitAcc_lt : s.units.bitAcc.toNat < 2 ^ 16
  /-- BIT_STEP is 0 or in [1, 2^16] (10_state.md R43). -/
  bitStep_le : s.units.bitStep.toNat ≤ 2 ^ 16
  /-- FRAME_CFG bits 31:18 are 0 (10_state.md R33). -/
  frameCfg_stored : frameCfgStored s.cfg.frameCfg = s.cfg.frameCfg
  /-- The latched copy equals the live registers (40_common.md R133). -/
  latched_live : ∀ c, s.latched = some c → c.args = s.args ∧ c.cfg = s.cfg
  /-- ERR is 0 from the issue of a command to its completion (40_common.md R132). -/
  busy_err : s.busy = true → s.err = .none

/-- A step that does not stop the machine. -/
def safeOutcome : Host.Outcome State Fault Refusal → Bool
  | .next _ => true
  | .fault _ | .refused _ => false

/-! ### The spec's tables -/

/-- The assigned opcodes (30_encoding.md R106). -/
def assignedOpcodes : List (BitVec 8) :=
  [0x00, 0x01, 0x02, 0x03, 0x04, 0x08, 0x09, 0x10, 0x11, 0x12, 0x13, 0x14, 0x15, 0x16, 0x17, 0x20, 0x21, 0x22]

/-- The reserved bits of an assigned opcode's format, as a mask over the command word (30_encoding.md R103): formats B8, B1, AE and
FB leave operand bits; every other assigned opcode has format Z. -/
def reservedBits (opc : BitVec 8) : Word :=
  if opc = 0x02 ∨ opc = 0x20 then 0x00FFFF00
  else if opc = 0x11 ∨ opc = 0x14 ∨ opc = 0x15 then 0x00FFFFFE
  else if opc = 0x08 then 0x00FFFE00
  else if opc = 0x09 then 0x00FFFFF0
  else 0x00FFFFFF

/-- The configuration check, then the operand-value checks of each command: (it fails, its code), in the order of its rule
(40_common.md R136 steps 2 and 3). -/
def checksOf : Instr → Args → Cfg → List (Bool × ErrCode)
  | .addrEnc ssid _, a, _ => [(decide (6 < a.n1), .callLen), (decide (15 < ssid), .ssid)]
  | .frameWrap, _, c | .lineEncode, _, c => [(decide (c.prepend < c.postpend), .config)]
  | .synthPrep, _, c | .synth, _, c =>
    [(decide (c.sampleRate.toNat < 1) || decide (c.bitRate.toNat < 1) || decide (c.sampleRate.toNat < c.bitRate.toNat) ||
        decide (c.bitRate.toNat * 2 ^ 16 / c.sampleRate.toNat < 1), .config)]
  | .nop, _, _ | .crcInit, _, _ | .crcByte _, _, _ | .crcFinal, _, _ | .crcBuf, _, _ | .frameBuild _, _, _
  | .stuffReset, _, _ | .stuffBit _, _, _ | .stuffBuf, _, _ | .nrziSet _, _, _ | .nrziBit _, _, _ | .nrziBuf, _, _
  | .lutRead _, _, _ => []

/-- The input regions of each command (30_encoding.md R105 and the command rules). -/
def inputsOf : Instr → Args → List Region
  | .crcBuf, a | .addrEnc _ _, a | .lineEncode, a => [byteRegion a.n0 a.n1]
  | .frameBuild ndigi, a => [byteRegion a.n0 (8 * (2 + ndigi)), byteRegion a.n1 a.n2]
  | .stuffBuf, a | .frameWrap, a | .nrziBuf, a | .synth, a => [bitRegion a.n0 a.n1]
  | .nop, _ | .crcInit, _ | .crcByte _, _ | .crcFinal, _ | .stuffReset, _ | .stuffBit _, _ | .nrziSet _, _ | .nrziBit _, _
  | .lutRead _, _ | .synthPrep, _ => []

/-- The output regions of each command, with its whole capacity (40_common.md R143 and the command rules). -/
def outputsOf : Instr → Args → List Region
  | .addrEnc _ _, a => [byteRegion a.n2 7]
  | .frameBuild ndigi, a => [byteRegion a.n3 (7 * (2 + ndigi) + 4 + a.n2)]
  | .stuffBuf, a | .frameWrap, a | .nrziBuf, a | .lineEncode, a => [bitRegion a.n2 a.n3]
  | .synth, a => [sampleRegion a.n2 a.n3]
  | .nop, _ | .crcInit, _ | .crcByte _, _ | .crcFinal, _ | .crcBuf, _ | .stuffReset, _ | .stuffBit _, _ | .nrziSet _, _
  | .nrziBit _, _ | .lutRead _, _ | .synthPrep, _ => []

/-- The bytes a bit sequence is stored in from A[2], when the input bits could be read. -/
def bitStore (s : State) (input : Option α) (out : α → Bits) : Region :=
  match input with
  | some x => ⟨s.cmdArgs.n2, bytesForBits (out x).length⟩
  | none => ⟨s.cmdArgs.n2, 0⟩

/-- The bytes each command stores when it succeeds (20_memory.md R82): the destination address of its rule, and the length of its
actual output. A command that stores nothing has an empty region. -/
def storeRegionOf (i : Instr) (s : State) : Region :=
  let a := s.cmdArgs
  let c := s.cmdCfg
  match i with
  | .addrEnc _ _ => ⟨a.n2, 7⟩
  | .frameBuild ndigi => ⟨a.n3, frameLength ndigi a.n2⟩
  | .stuffBuf => bitStore s (s.lmem.readBits a.n0 a.n1) fun bits => (stuff s.units.onesCnt.toNat bits).1
  | .frameWrap => bitStore s (s.lmem.readBits a.n0 a.n1) fun bits => wrap bits c.prepend c.postpend
  | .nrziBuf => bitStore s (s.lmem.readBits a.n0 a.n1) fun bits => (nrzi s.units.lineState bits).1
  | .lineEncode => bitStore s (s.lmem.readBytes a.n0 a.n1) fun frame => (lineEncoded c frame).1
  | .synth => ⟨a.n2, 2 * sampleCount c a.n1⟩
  | .nop | .crcInit | .crcByte _ | .crcFinal | .crcBuf | .stuffReset | .stuffBit _ | .nrziSet _ | .nrziBit _ | .lutRead _
  | .synthPrep => ⟨0, 0⟩

/-- Which commands write CRC (10_state.md R36). -/
def writesCrc : Instr → Bool
  | .crcInit | .crcByte _ | .crcBuf | .frameBuild _ => true
  | .nop | .crcFinal | .addrEnc _ _ | .stuffReset | .stuffBit _ | .stuffBuf | .frameWrap | .nrziSet _ | .nrziBit _ | .nrziBuf
  | .lineEncode | .lutRead _ | .synthPrep | .synth => false

/-- Which commands write ONES_CNT (10_state.md R37). -/
def writesOnesCnt : Instr → Bool
  | .stuffReset | .stuffBit _ | .stuffBuf | .lineEncode => true
  | .nop | .crcInit | .crcByte _ | .crcFinal | .crcBuf | .addrEnc _ _ | .frameBuild _ | .frameWrap | .nrziSet _ | .nrziBit _
  | .nrziBuf | .lutRead _ | .synthPrep | .synth => false

/-- Which commands write LINE_STATE (10_state.md R38). -/
def writesLineState : Instr → Bool
  | .nrziSet _ | .nrziBit _ | .nrziBuf | .lineEncode => true
  | .nop | .crcInit | .crcByte _ | .crcFinal | .crcBuf | .addrEnc _ _ | .frameBuild _ | .stuffReset | .stuffBit _ | .stuffBuf
  | .frameWrap | .lutRead _ | .synthPrep | .synth => false

/-- Which commands write TONE_ACC and BIT_ACC (10_state.md R39, R40). -/
def writesAccs : Instr → Bool
  | .synth => true
  | .nop | .crcInit | .crcByte _ | .crcFinal | .crcBuf | .addrEnc _ _ | .frameBuild _ | .stuffReset | .stuffBit _ | .stuffBuf
  | .frameWrap | .nrziSet _ | .nrziBit _ | .nrziBuf | .lineEncode | .lutRead _ | .synthPrep => false

/-- Which commands write MARK_STEP, SPACE_STEP, BIT_STEP and SPB (10_state.md R41 to R44). -/
def writesSteps : Instr → Bool
  | .synthPrep | .synth => true
  | .nop | .crcInit | .crcByte _ | .crcFinal | .crcBuf | .addrEnc _ _ | .frameBuild _ | .stuffReset | .stuffBit _ | .stuffBuf
  | .frameWrap | .nrziSet _ | .nrziBit _ | .nrziBuf | .lineEncode | .lutRead _ => false

/-- What no command changes: A0 to A3, the configuration, OVR, LMEM_SIZE, and the model's own fields. -/
def sameHostSide (s t : State) : Prop :=
  t.args = s.args ∧ t.cfg = s.cfg ∧ t.ovr = s.ovr ∧ t.lmemSize = s.lmemSize ∧ t.schedule = s.schedule ∧
    t.draws = s.draws ∧ t.readData = s.readData

/-! ### The inverse functions and closed forms the spec's laws name -/

/-- `Destuff` (44_bit_transformer.md R209), from a count of consecutive 1s: the bit after each fifth 1 is removed, and removing
it resets the count. -/
def destuff : Nat → Bits → Bits
  | _, [] => []
  | c, b :: t => if c = 5 then destuff 0 t else if b then true :: destuff (c + 1) t else false :: destuff 0 t

/-- NRZI decoding from the line state before the first bit (44_bit_transformer.md R225): a bit is 1 exactly when the line state
did not change. -/
def nrziDecode : Bool → Bits → Bits
  | _, [] => []
  | prev, o :: t => (o == prev) :: nrziDecode o t

/-- Removes the preamble and opening flags, and the closing flags (44_bit_transformer.md R228, step 2). -/
def unframe (p q : Nat) (w : Bits) : Bits :=
  (w.drop (8 * (p - q) + 8 * q)).take (w.length - (8 * (p - q) + 8 * q) - 8 * q)

/-- The tone accumulator before sample `k`, as the closed forms of 46_tone_synth.md R258 and R260 sum it: one step for every
earlier sample, that of the bit active at it. -/
def toneSum (mark space : Word) (bits : Bits) (active : Nat → Nat) : Nat → Word
  | 0 => 0
  | k + 1 => toneSum mark space bits active k + toneFor mark space (bits.getD (active k) false)

end Sys2Proof.Machine
end

