-- ==== Sys2Proof/Certificates/Slice0/Obligations.lean ====
section
/-!
DEFINITION. The statements for the provers. Each says something the spec's numbered rules say of the block; its docstring names
them. `s.cmdArgs` and `s.cmdCfg` are the latched arguments and configuration a command reads (40_common.md R133).
-/

open Sys2Proof Sys2Proof.Machine

/-! ### Reset and the whole machine -/

/-- 10_state.md R51: what every register holds after reset, as the host reads it, for a block of any LMEM size; no command
latched, no LMEM byte written. The numbers of MARK_FREQ and SPACE_FREQ are the ones R51 marks as general knowledge (log 13); that
the model's `State.reset` has a legal LMEM size is its own choice (log 1). -/
def Obligations.ResetRegisterValues : Prop :=
  (∀ size : Nat,
    let s := State.resetOf size
    s.regValue .status = 0 ∧ s.regValue .result = 0 ∧ s.regValue .id = 0x41465337 ∧
    s.regValue .a0 = 0 ∧ s.regValue .a1 = 0 ∧ s.regValue .a2 = 0 ∧ s.regValue .a3 = 0 ∧
    s.regValue .sampleRate = 8000 ∧ s.regValue .bitRate = 1200 ∧ s.regValue .markFreq = 1200 ∧
    s.regValue .spaceFreq = 2200 ∧ s.regValue .frameCfg = 0x0000034B ∧
    s.cfg.prepend = 75 ∧ s.cfg.postpend = 3 ∧ s.cfg.nrziInit = false ∧ s.cfg.synthMode = false ∧
    s.regValue .crc = 0x0000FFFF ∧ s.regValue .onesCnt = 0 ∧ s.regValue .lineState = 0 ∧ s.regValue .toneAcc = 0 ∧
    s.regValue .bitAcc = 0 ∧ s.regValue .markStep = 0 ∧ s.regValue .spaceStep = 0 ∧ s.regValue .bitStep = 0 ∧
    s.regValue .spb = 0 ∧ s.regValue .lmemSize = BitVec.ofNat 32 size ∧
    s.latched = none ∧ ∀ a, s.lmem.read a = none) ∧
  ∃ size, Config.lmemSizeMin ≤ size ∧ size ≤ Config.lmemSizeMax ∧ State.reset = State.resetOf size

/-- 70_reset_and_hazards.md R312: a reset abandons a latched command; the state is that of reset and none of the command's effects
is applied, whatever the state was. -/
def Obligations.ResetAbandonsLatchedCommand : Prop :=
  ∀ (s : State) (rest : List Event), s.schedule = .reset :: rest →
    ∃ t, step s = .next t ∧ t.latched = none ∧ t.busy = false ∧
      t.args = (State.resetOf s.lmemSize).args ∧ t.cfg = (State.resetOf s.lmemSize).cfg ∧
      t.units = (State.resetOf s.lmemSize).units ∧ t.result = 0 ∧ t.err = .none ∧ t.errs = false ∧ t.ovr = false ∧
      (∀ a, t.lmem.read a = none) ∧ t.lmemSize = s.lmemSize ∧ t.schedule = rest

/-- The invariant holds at reset, for every legal LMEM size (10_state.md R51). -/
def Obligations.ResetMeetsInvariant : Prop :=
  (∀ size, Config.lmemSizeMin ≤ size → size ≤ Config.lmemSizeMax → (State.resetOf size).Inv) ∧ State.reset.Inv

/-- Every step keeps the invariant: LMEM canonical and inside its bounds, ONES_CNT in 0..4 (10_state.md R37), BIT_ACC below 2^16
(R40), BIT_STEP at most 2^16 (R43), FRAME_CFG's reserved bits 0 (R33), the latched copy equal to the live registers
(40_common.md R133), ERR 0 while BUSY (R132). -/
def Obligations.StepKeepsInvariant : Prop :=
  ∀ s t : State, s.Inv → step s = .next t → t.Inv

/-- 10_state.md R45: the LMEM_SIZE register reads the parameter, ignores writes, and no step changes it, reset included. -/
def Obligations.LmemSizeIsConstant : Prop :=
  (∀ s t : State, step s = .next t → t.lmemSize = s.lmemSize) ∧
  (∀ (s : State) (rest : List Event), s.schedule = .read 0x64 4 :: rest → s.lmemSize ≤ Config.lmemSizeMax →
    ∃ v : Word, v.toNat = s.lmemSize ∧ step s = .next { s with schedule := rest, readData := some v }) ∧
  ∀ (s : State) (v : Word) (rest : List Event), s.schedule = .write 0x64 4 v :: rest →
    step s = .next { s with schedule := rest }

/-! ### Encoding -/

/-- 30_encoding.md R101 to R109: decoding the word of a well-formed command gives it back, and a word decodes only to the
well-formed command whose word it is. -/
def Obligations.DecodeEncodeRoundTrip : Prop :=
  (∀ i : Instr, i.wellFormed = true → decode (encode i) = .ok i) ∧
  ∀ (w : Word) (i : Instr), decode w = .ok i → i.wellFormed = true ∧ encode i = w

/-- 30_encoding.md R107: a command with an illegal opcode completes with ERR_OPCODE and has no other effect, whatever the state
and its other bits are. -/
def Obligations.UnassignedOpcodeFails : Prop :=
  ∀ (s : State) (c : Latched), s.nextEvent = .engine → s.latched = some c →
    let opc := (c.word.extractLsb' 24 8).toNat
    (0x05 ≤ opc ∧ opc ≤ 0x07 ∨ 0x0A ≤ opc ∧ opc ≤ 0x0F ∨ 0x18 ≤ opc ∧ opc ≤ 0x1F ∨ 0x23 ≤ opc) →
    step s = .next { s with schedule := s.schedule.tail, err := .opcode, errs := true, latched := none }

/-- 30_encoding.md R108: a command with an assigned opcode and a 1 in a reserved bit of its format completes with ERR_FIELD and
has no other effect, before any other check. -/
def Obligations.ReservedBitFails : Prop :=
  ∀ (s : State) (c : Latched), s.nextEvent = .engine → s.latched = some c →
    c.word.extractLsb' 24 8 ∈ assignedOpcodes → c.word &&& reservedBits (c.word.extractLsb' 24 8) ≠ 0 →
    step s = .next { s with schedule := s.schedule.tail, err := .field, errs := true, latched := none }

/-- 30_encoding.md R103, R106, R110: words of every format, written out from the opcode map; commands from a mnemonic and operand
numbers, and that an operand outside its field's width is an assembly error. Two forms are the model's choice: that the assembler
takes a mnemonic and numbers and that an assembly error leaves a line without events (log 24); and the events of a well-formed
command's line after its CMD write, one ENGINE turn and one STATUS read, which is one of the interleavings of `poll` (log 22). -/
def Obligations.WordsOfTheOpcodeMap : Prop :=
  decode 0x00000000 = .ok .nop ∧ decode 0x01000000 = .ok .crcInit ∧ decode 0x02000031 = .ok (.crcByte 0x31) ∧
  decode 0x08000107 = .ok (.addrEnc 7 true) ∧ decode 0x09000001 = .ok (.frameBuild 1) ∧
  decode 0x15000000 = .ok (.nrziBit false) ∧ decode 0x20000026 = .ok (.lutRead 38) ∧ decode 0x22000000 = .ok .synth ∧
  decode 0x05000000 = .error .opcode ∧ decode 0x09000010 = .error .field ∧
  assemble "ADDR_ENC" [7, 1] = some (.addrEnc 7 true) ∧ assemble "CRC_BYTE" [0x31] = some (.crcByte 0x31) ∧
  assemble "CRC_BYTE" [256] = none ∧ assemble "NRZI_BIT" [2] = none ∧ assemble "ADDR_ENC" [256, 0] = none ∧
  assemble "ADDR_ENC" [0, 2] = none ∧ assemble "FRAME_BUILD" [16] = none ∧
  (∀ i : Instr, i.wellFormed = true →
    (HostOp.cmd i).events = some [.write 0x00 4 (encode i), .engine, .read 0x04 4]) ∧
  ∀ i : Instr, i.wellFormed = false → (HostOp.cmd i).events = none

/-- 40_common.md R135, R136: when it is the ENGINE's turn and the latched word decodes to a well-formed command, the step is
that command's completion, in the state with the event taken off the schedule. -/
def Obligations.StepRunsDecodedCommand : Prop :=
  ∀ (s : State) (c : Latched) (i : Instr), s.nextEvent = .engine → s.latched = some c → decode c.word = .ok i →
    i.wellFormed = true → step s = exec i { s with schedule := s.schedule.tail }

/-! ### The host port -/

/-- 40_common.md R132: an accepted CMD write sets BUSY, clears ERR and latches the word, A0 to A3 and the configuration; no other
state changes. -/
def Obligations.CmdWriteIssues : Prop :=
  ∀ (s : State) (w : Word) (rest : List Event), s.schedule = .write 0x00 4 w :: rest → s.busy = false →
    step s = .next { s with schedule := rest, latched := some { word := w, args := s.args, cfg := s.cfg }, err := .none }

/-- 40_common.md R134, 60_exceptions.md R308: while BUSY = 1 a write of CMD (and of A0 to A3 and the configuration registers) is
ignored and sets OVR; the latched command, ERR and everything else stay. -/
def Obligations.WritesWhileBusyAreIgnored : Prop :=
  ∀ (s : State) (offset : BitVec 24) (v : Word) (rest : List Event), s.schedule = .write offset 4 v :: rest →
    s.busy = true → offset ∈ [0x00, 0x10, 0x14, 0x18, 0x1C, 0x20, 0x24, 0x28, 0x2C, 0x30] →
    step s = .next { s with schedule := rest, ovr := true }

/-- 10_state.md R26, R50, 60_exceptions.md R301: the fields of STATUS as the host reads it, with the code of every error name; a
write of STATUS clears ERRS for a 1 in bit 8 and OVR for a 1 in bit 9, whether or not BUSY = 1, and does nothing else. -/
def Obligations.StatusRegister : Prop :=
  (∀ s : State,
    s.status.getLsbD 0 = s.busy ∧ s.status.extractLsb' 1 3 = 0 ∧ s.status.extractLsb' 4 4 = s.err.code ∧
    s.status.getLsbD 8 = s.errs ∧ s.status.getLsbD 9 = s.ovr ∧ s.status.extractLsb' 10 22 = 0) ∧
  (ErrCode.none.code = 0 ∧ ErrCode.opcode.code = 1 ∧ ErrCode.field.code = 2 ∧ ErrCode.config.code = 3 ∧
    ErrCode.range.code = 4 ∧ ErrCode.overlap.code = 5 ∧ ErrCode.capacity.code = 6 ∧ ErrCode.callLen.code = 7 ∧
    ErrCode.callChar.code = 8 ∧ ErrCode.ssid.code = 9) ∧
  ∀ (s : State) (v : Word) (rest : List Event), s.schedule = .write 0x04 4 v :: rest →
    step s = .next
      { s with
        schedule := rest, errs := if v.getLsbD 8 then false else s.errs, ovr := if v.getLsbD 9 then false else s.ovr }

/-- 10_state.md R23, R24, R33: while BUSY = 0 a write of A0 to A3 or of a configuration register stores the value (FRAME_CFG its
bits 17:0) in the register that the map names at its offset, every other register reads as before, and LMEM is unchanged. -/
def Obligations.IdleWritesStore : Prop :=
  ∀ (s : State) (offset : BitVec 24) (v : Word) (rest : List Event), s.schedule = .write offset 4 v :: rest →
    s.busy = false → offset ∈ [0x10, 0x14, 0x18, 0x1C, 0x20, 0x24, 0x28, 0x2C, 0x30] →
    ∃ t, step s = .next t ∧
      (offset = 0x10 → t.args = { s.args with a0 := v } ∧ t.cfg = s.cfg) ∧
      (offset = 0x14 → t.args = { s.args with a1 := v } ∧ t.cfg = s.cfg) ∧
      (offset = 0x18 → t.args = { s.args with a2 := v } ∧ t.cfg = s.cfg) ∧
      (offset = 0x1C → t.args = { s.args with a3 := v } ∧ t.cfg = s.cfg) ∧
      (offset = 0x20 → t.cfg = { s.cfg with sampleRate := v } ∧ t.args = s.args) ∧
      (offset = 0x24 → t.cfg = { s.cfg with bitRate := v } ∧ t.args = s.args) ∧
      (offset = 0x28 → t.cfg = { s.cfg with markFreq := v } ∧ t.args = s.args) ∧
      (offset = 0x2C → t.cfg = { s.cfg with spaceFreq := v } ∧ t.args = s.args) ∧
      (offset = 0x30 → t.cfg = { s.cfg with frameCfg := v &&& 0x0003FFFF } ∧ t.args = s.args) ∧
      t.regValue (regAt offset.toNat) = (if offset = 0x30 then v &&& 0x0003FFFF else v) ∧
      (∀ r, r ≠ regAt offset.toNat → t.regValue r = s.regValue r) ∧
      t.lmem = s.lmem ∧ t.latched = none ∧ t.schedule = rest

/-- 10_state.md R46: the reserved offsets read 0 and ignore writes, without a bus error. -/
def Obligations.ReservedOffsetsReadZero : Prop :=
  ∀ (s : State) (offset : BitVec 24) (v : Word) (rest : List Event),
    (0x34 ≤ offset.toNat ∧ offset.toNat ≤ 0x3C ∨ 0x68 ≤ offset.toNat ∧ offset.toNat ≤ 0xFC) → offset.toNat % 4 = 0 →
    (s.schedule = .read offset 4 :: rest → step s = .next { s with schedule := rest, readData := some 0 }) ∧
    (s.schedule = .write offset 4 v :: rest → step s = .next { s with schedule := rest })

/-- 10_state.md R24: a host write of a read-only register is ignored and has no side effect, busy or not. -/
def Obligations.ReadOnlyRegistersIgnoreWrites : Prop :=
  ∀ (s : State) (offset : BitVec 24) (v : Word) (rest : List Event), s.schedule = .write offset 4 v :: rest →
    offset ∈ [0x08, 0x0C, 0x40, 0x44, 0x48, 0x4C, 0x50, 0x54, 0x58, 0x5C, 0x60, 0x64] →
    step s = .next { s with schedule := rest }

/-- 10_state.md R23, R24, R52, 93_implementation_defined.md I4: a read of RESULT or a unit-state register while BUSY = 1 returns a
free value, a new one for each read; that the free values are `Config.busyRead` numbered by `draws` is the model's choice (log 3),
and the statement holds whatever they are. Every other read returns at all times what the map names at its offset, and 0 at an
offset the map reserves. A read changes nothing else. -/
def Obligations.RegisterReads : Prop :=
  ∀ (s : State) (offset : BitVec 24) (rest : List Event), s.schedule = .read offset 4 :: rest →
    offset.toNat < 0x100 → offset.toNat % 4 = 0 →
    let unspecified := s.busy = true ∧ offset ∈ [0x08, 0x40, 0x44, 0x48, 0x4C, 0x50, 0x54, 0x58, 0x5C, 0x60]
    let stored : List (BitVec 24 × Word) :=
      [(0x00, 0), (0x04, s.status), (0x08, s.result), (0x0C, 0x41465337), (0x10, s.args.a0), (0x14, s.args.a1),
        (0x18, s.args.a2), (0x1C, s.args.a3), (0x20, s.cfg.sampleRate), (0x24, s.cfg.bitRate), (0x28, s.cfg.markFreq),
        (0x2C, s.cfg.spaceFreq), (0x30, s.cfg.frameCfg &&& 0x0003FFFF), (0x40, s.units.crc.setWidth 32),
        (0x44, s.units.onesCnt.setWidth 32), (0x48, if s.units.lineState then 1 else 0), (0x4C, s.units.toneAcc),
        (0x50, s.units.bitAcc), (0x54, s.units.markStep), (0x58, s.units.spaceStep), (0x5C, s.units.bitStep),
        (0x60, s.units.spb), (0x64, BitVec.ofNat 32 s.lmemSize)]
    (unspecified →
      step s = .next
        { s with schedule := rest, readData := some (Config.busyRead s.draws), draws := s.draws + 1 }) ∧
    (¬ unspecified →
      (∀ v, (offset, v) ∈ stored → step s = .next { s with schedule := rest, readData := some v }) ∧
      ((∀ v, (offset, v) ∉ stored) → step s = .next { s with schedule := rest, readData := some 0 }) ∧
      step s = .next { s with schedule := rest, readData := some (s.regValue (regAt offset.toNat)) })

/-- 20_memory.md R73 to R75, R79: a host access is a bus error exactly when the map and the width, alignment and extent rules do
not allow it, whether or not BUSY = 1. -/
def Obligations.BusErrorsExactly : Prop :=
  ∀ (s : State) (offset : BitVec 24) (width : Nat) (v : Word) (rest : List Event),
    let o := offset.toNat
    let bad :=
      (o < 0x100 ∧ ¬ (width = 4 ∧ o % 4 = 0)) ∨ (0x100 ≤ o ∧ o < 0x800000) ∨
        (0x800000 ≤ o ∧
          ¬ ((width = 1 ∨ width = 2 ∨ width = 4) ∧ (o - 0x800000) % width = 0 ∧ o - 0x800000 + width ≤ s.lmemSize))
    (s.schedule = .read offset width :: rest → (step s = .fault .busError ↔ bad)) ∧
    (s.schedule = .write offset width v :: rest → (step s = .fault .busError ↔ bad))

/-- 20_memory.md R75, R76: an aligned LMEM write of 1, 2 or 4 bytes while idle stores them least significant first, touches no
other byte and no register, and a read of the same bytes returns the value's low bytes. -/
def Obligations.LmemWindowWriteReadBack : Prop :=
  ∀ (s : State) (offset : BitVec 24) (width : Nat) (v : Word) (rest : List Event),
    s.schedule = .write offset width v :: .read offset width :: rest → s.busy = false → 0x800000 ≤ offset.toNat →
    (width = 1 ∨ width = 2 ∨ width = 4) → (offset.toNat - 0x800000) % width = 0 →
    offset.toNat - 0x800000 + width ≤ s.lmemSize →
    ∃ m : Memory,
      (∀ j, j < width → m.read (offset.toNat - 0x800000 + j) = some (v.extractLsb' (8 * j) 8)) ∧
      (∀ a, a < offset.toNat - 0x800000 ∨ offset.toNat - 0x800000 + width ≤ a → m.read a = s.lmem.read a) ∧
      step s = .next { s with schedule := .read offset width :: rest, lmem := m } ∧
      step { s with schedule := .read offset width :: rest, lmem := m } =
        .next { s with schedule := rest, lmem := m, readData := some (BitVec.ofNat 32 (v.toNat % 2 ^ (8 * width))) }

/-- 20_memory.md R89, R90, 70_reset_and_hazards.md R322: an LMEM access that the map allows is a fault of the HOST step while
BUSY = 1; while BUSY = 0 a read is a fault exactly when one of its bytes was not written since reset. -/
def Obligations.LmemAccessFaults : Prop :=
  ∀ (s : State) (offset : BitVec 24) (width : Nat) (v : Word) (rest : List Event), 0x800000 ≤ offset.toNat →
    (width = 1 ∨ width = 2 ∨ width = 4) → (offset.toNat - 0x800000) % width = 0 →
    offset.toNat - 0x800000 + width ≤ s.lmemSize →
    (s.schedule = .read offset width :: rest → s.busy = true → step s = .fault .hostLmemWhileBusy) ∧
    (s.schedule = .write offset width v :: rest → s.busy = true → step s = .fault .hostLmemWhileBusy) ∧
    (s.schedule = .read offset width :: rest → s.busy = false →
      (step s = .fault .hostReadUnwritten ↔ ∃ j, j < width ∧ s.lmem.read (offset.toNat - 0x800000 + j) = none))

/-- 10_state.md R53: no host access writes RESULT or a unit-state register. -/
def Obligations.HostNeverWritesUnitState : Prop :=
  ∀ (s t : State) (rest : List Event) (offset : BitVec 24) (width : Nat) (v : Word),
    (s.schedule = .read offset width :: rest ∨ s.schedule = .write offset width v :: rest) → step s = .next t →
    t.units = s.units ∧ t.result = s.result

/-! ### What every command shares -/

/-- 40_common.md R136, 60_exceptions.md R303: the first failing configuration or operand check decides the code; then a region
out of range is ERR_RANGE; then an input overlapping an output is ERR_OVERLAP; then an input byte not written since reset is the
ENGINE's fault (20_memory.md R90). That the fault comes before the content and capacity checks is the model's reading (log 6). -/
def Obligations.ChecksRunInOrder : Prop :=
  ∀ (i : Instr) (s : State),
    let ins := inputsOf i s.cmdArgs
    let outs := outputsOf i s.cmdArgs
    (∀ code, firstFailing (checksOf i s.cmdArgs s.cmdCfg) = some code → exec i s = .next (s.fail code)) ∧
    (firstFailing (checksOf i s.cmdArgs s.cmdCfg) = none →
      ((∃ r ∈ ins ++ outs, inRange s.lmemSize r = false) → exec i s = .next (s.fail .range)) ∧
      ((∀ r ∈ ins ++ outs, inRange s.lmemSize r = true) →
        ((∃ r ∈ ins, ∃ q ∈ outs, overlap r q = true) → exec i s = .next (s.fail .overlap)) ∧
        ((∀ r ∈ ins, ∀ q ∈ outs, overlap r q = false) →
          (∃ r ∈ ins, ∃ j, j < r.len ∧ s.lmem.read (r.start + j) = none) →
          exec i s = .fault .engineReadUnwritten)))

/-- 40_common.md R137, 60_exceptions.md R304: a command word that completes with a code other than 0 changes ERR, ERRS, BUSY and
the latched command, and nothing else. -/
def Obligations.NoEffectOnError : Prop :=
  ∀ (w : Word) (s t : State), complete w s = .next t → t.err ≠ .none →
    t = { s with err := t.err, errs := true, latched := none }

/-- 40_common.md R135, R138, R146: whatever a command word is, its completion leaves A0 to A3, the configuration, OVR and
LMEM_SIZE as they were, clears BUSY and the latched command, and with code 0 leaves ERRS as it was. -/
def Obligations.CompletionFrame : Prop :=
  ∀ (w : Word) (s t : State), complete w s = .next t →
    sameHostSide s t ∧ t.latched = none ∧ t.busy = false ∧ (t.err = .none → t.errs = s.errs)

/-- 20_memory.md R90, 93_implementation_defined.md I6: a command stops only because a byte of an input region was not written
since reset; it is never refused. -/
def Obligations.CommandFaultsOnlyOnUnwrittenInput : Prop :=
  ∀ (i : Instr) (s : State),
    (∀ r, exec i s = .fault r →
      r = .engineReadUnwritten ∧
        ∃ q ∈ inputsOf i s.cmdArgs, ∃ j, j < q.len ∧ s.lmem.read (q.start + j) = none) ∧
    ∀ r, exec i s ≠ .refused r

/-- 10_state.md R36 to R44: a unit-state register changes only under the commands its rule names. -/
def Obligations.UnitRegisterWriters : Prop :=
  ∀ (i : Instr) (s t : State), exec i s = .next t →
    (writesCrc i = false → t.units.crc = s.units.crc) ∧
    (writesOnesCnt i = false → t.units.onesCnt = s.units.onesCnt) ∧
    (writesLineState i = false → t.units.lineState = s.units.lineState) ∧
    (writesAccs i = false → t.units.toneAcc = s.units.toneAcc ∧ t.units.bitAcc = s.units.bitAcc) ∧
    (writesSteps i = false →
      t.units.markStep = s.units.markStep ∧ t.units.spaceStep = s.units.spaceStep ∧
        t.units.bitStep = s.units.bitStep ∧ t.units.spb = s.units.spb)

/-- 20_memory.md R82: every LMEM byte outside the bytes a command stores reads as before: the bytes of a capacity beyond the
actual output among them, and every byte for a command that stores nothing. -/
def Obligations.MemoryFrame : Prop :=
  ∀ (i : Instr) (s t : State), exec i s = .next t →
    ∀ a, (a < (storeRegionOf i s).start ∨ (storeRegionOf i s).start + (storeRegionOf i s).len ≤ a) →
      t.lmem.read a = s.lmem.read a

/-! ### Buffers -/

/-- 40_common.md R139: when a region is in range, when two overlap, and that an empty region is always in range, overlaps
nothing, and reads and writes nothing; overlapping regions are those that share an address. -/
def Obligations.RegionRules : Prop :=
  (∀ (size : Nat) (r : Region), inRange size r = true ↔ r.len = 0 ∨ r.start + r.len ≤ size) ∧
  (∀ r q : Region, overlap r q = true ↔
    0 < r.len ∧ 0 < q.len ∧ r.start < q.start + q.len ∧ q.start < r.start + r.len) ∧
  (∀ r q : Region, overlap r q = true ↔
    ∃ a, (r.start ≤ a ∧ a < r.start + r.len) ∧ q.start ≤ a ∧ a < q.start + q.len) ∧
  (∀ (size start : Nat) (q : Region),
    inRange size ⟨start, 0⟩ = true ∧ overlap ⟨start, 0⟩ q = false ∧ overlap q ⟨start, 0⟩ = false) ∧
  ∀ (m : Memory) (start : Nat), m.readBytes start 0 = some [] ∧ m.writeBytes start [] = m

/-- 40_common.md R140: bit k of a bit sequence read from LMEM is bit k mod 8 of byte floor(k / 8), and the bytes read are those of
its BitRegion. -/
def Obligations.ReadBitsLayout : Prop :=
  ∀ (m : Memory) (b n : Nat),
    ((∃ bits, m.readBits b n = some bits) ↔ ∀ j, j < bytesForBits n → m.read (b + j) ≠ none) ∧
    ∀ bits, m.readBits b n = some bits →
      bits.length = n ∧
        ∀ k, k < n → ∃ x, m.read (b + k / 8) = some x ∧ bits[k]? = some (x.getLsbD (k % 8))

/-- 40_common.md R141: a bit sequence of length n is written as ceil(n / 8) bytes, bit t of byte j being bit 8j + t of the
sequence and 0 beyond its end; the empty sequence writes nothing; and what is written reads back. -/
def Obligations.WriteBitsLayout : Prop :=
  ∀ s : Bits,
    (packBits s).length = (s.length + 7) / 8 ∧
    (∀ j t, j < (s.length + 7) / 8 → t < 8 →
      ∃ x, (packBits s)[j]? = some x ∧ x.getLsbD t = (s[8 * j + t]?).getD false) ∧
    packBits [] = [] ∧
    ∀ (m : Memory) (b : Nat),
      (∀ j x, (packBits s)[j]? = some x → (m.writeBytes b (packBits s)).read (b + j) = some x) ∧
        m.writeBytes b (packBits []) = m ∧ (m.writeBytes b (packBits s)).readBits b s.length = some s

/-- 40_common.md R142, 20_memory.md R78: sample k of a buffer occupies bytes 2k (low) and 2k + 1 (high) and reads back as
written; the empty sequence writes nothing. -/
def Obligations.SampleLayout : Prop :=
  (∀ (xs : List Half), (packSamples xs).length = 2 * xs.length) ∧ packSamples [] = [] ∧
  ∀ (m : Memory) (b : Nat) (xs : List Half) (k : Nat) (x : Half), xs[k]? = some x →
    ∃ bytes, (m.writeBytes b (packSamples xs)).readBytes (b + 2 * k) 2 = some bytes ∧ littleEndian bytes = x.toNat

/-! ### NOP and the CRC engine -/

/-- 40_common.md R144, 42_crc.md R176, R178 to R180: NOP changes nothing but the flags; CRC_INIT, CRC_BYTE and CRC_FINAL complete
with the CRC and RESULT their rules give, and change nothing else. `crcStep`, which CRC_BYTE applies, is the bit-level rule of
R176, eight conditional shifts after the XOR of the byte; its corner values are those of R179. -/
def Obligations.NopAndCrcRegisterCommandsComplete : Prop :=
  (∀ s : State,
    exec .nop s = .next { s with err := .none, latched := none } ∧
    exec .crcInit s =
      .next { s with units := { s.units with crc := 0xFFFF }, result := 0x0000FFFF, err := .none, latched := none } ∧
    (∀ val : Byte,
      exec (.crcByte val) s =
        .next
          { s with
            units := { s.units with crc := crcStep s.units.crc val },
            result := (crcStep s.units.crc val).setWidth 32, err := .none, latched := none }) ∧
    exec .crcFinal s =
      .next { s with result := (s.units.crc ^^^ 0xFFFF#16).setWidth 32, err := .none, latched := none }) ∧
  (∀ (crc : Half) (b : Byte),
    let shift (c : Half) : Half := if c.getLsbD 0 then (c >>> 1) ^^^ 0x8408#16 else c >>> 1
    crcStep crc b = shift (shift (shift (shift (shift (shift (shift (shift (crc ^^^ b.setWidth 16))))))))) ∧
  crcStep 0x0000 0x00 = 0x0000 ∧ crcStep 0xFFFF 0xFF = 0x00FF ∧ crcStep 0x0000 0x80 = 0x8408 ∧
  crcStep 0xFFFF 0x31 = 0x2F8D

/-- 42_crc.md R181: CRC_BUF over written bytes in range continues from the CRC register. -/
def Obligations.CrcBufCompletes : Prop :=
  ∀ (s : State) (bytes : List Byte),
    (s.cmdArgs.n1 = 0 ∨ s.cmdArgs.n0 + s.cmdArgs.n1 ≤ s.lmemSize) →
    s.lmem.readBytes s.cmdArgs.n0 s.cmdArgs.n1 = some bytes →
    exec .crcBuf s =
      .next
        { s with
          units := { s.units with crc := bytes.foldl crcStep s.units.crc },
          result := (bytes.foldl crcStep s.units.crc ^^^ 0xFFFF#16).setWidth 32, err := .none, latched := none }

/-- 42_crc.md R181: two CRC_BUF commands, latched one after the other over consecutive buffers, leave the same CRC and RESULT as one
latched over both. Each is latched as an issue latches it: the copy equals the live registers (40_common.md R133). -/
def Obligations.CrcBufSplits : Prop :=
  ∀ (s t : State) (a m n : Nat), a + m + n < 2 ^ 32 →
    let buffer (u : State) (x y : Nat) : State :=
      let args : Args := { u.args with a0 := BitVec.ofNat 32 x, a1 := BitVec.ofNat 32 y }
      { u with args := args, latched := some { word := 0x04000000, args := args, cfg := u.cfg } }
    exec .crcBuf (buffer s a (m + n)) = .next t → t.err = .none →
    ∃ t₁ t₂, exec .crcBuf (buffer s a m) = .next t₁ ∧ exec .crcBuf (buffer t₁ (a + m) n) = .next t₂ ∧
      t₂.units = t.units ∧ t₂.result = t.result ∧ t₂.lmem = t.lmem ∧ t₁.err = .none ∧ t₂.err = .none

/-- 42_crc.md R183: a message with two bytes appended folds to the residue 0xF0B8 exactly when the bytes are its FCS, low byte
first. -/
def Obligations.ResidueOfEveryMessage : Prop :=
  ∀ (msg : List Byte) (lo hi : Byte),
    crcFold 0xFFFF#16 (msg ++ [lo, hi]) = 0xF0B8#16 ↔ lo = (fcs msg).extractLsb' 0 8 ∧ hi = (fcs msg).extractLsb' 8 8

/-! ### The address encoder -/

/-- 41_address_encoder.md R165: ADDR_ENC with a legal length and SSID, regions in range and apart, and printable callsign bytes
stores the 7 encoded bytes and answers 7. -/
def Obligations.AddrEncCompletes : Prop :=
  ∀ (s : State) (ssid : Nat) (last : Bool) (call : List Byte), s.cmdArgs.n1 ≤ 6 → ssid ≤ 15 →
    (s.cmdArgs.n1 = 0 ∨ s.cmdArgs.n0 + s.cmdArgs.n1 ≤ s.lmemSize) → s.cmdArgs.n2 + 7 ≤ s.lmemSize →
    overlap (byteRegion s.cmdArgs.n0 s.cmdArgs.n1) (byteRegion s.cmdArgs.n2 7) = false →
    s.lmem.readBytes s.cmdArgs.n0 s.cmdArgs.n1 = some call → (∀ c ∈ call, 0x20 ≤ c.toNat ∧ c.toNat ≤ 0x7E) →
    exec (.addrEnc ssid last) s =
      .next
        { s with
          lmem := s.lmem.writeBytes s.cmdArgs.n2 (encodeAddress call ssid last), result := 7, err := .none,
          latched := none }

/-- 41_address_encoder.md R165, 43_frame_builder.md R194, 60_exceptions.md R303: the content checks, every earlier check passed. A
callsign byte outside 0x20 to 0x7E makes ADDR_ENC complete with ERR_CALL_CHAR. The first descriptor that is not legal decides the
error of FRAME_BUILD: ERR_CALL_CHAR if its callsign has such a byte, else ERR_SSID. There is no other effect. -/
def Obligations.ContentErrors : Prop :=
  (∀ (s : State) (ssid : Nat) (last : Bool) (call : List Byte), s.cmdArgs.n1 ≤ 6 → ssid ≤ 15 →
    (s.cmdArgs.n1 = 0 ∨ s.cmdArgs.n0 + s.cmdArgs.n1 ≤ s.lmemSize) → s.cmdArgs.n2 + 7 ≤ s.lmemSize →
    overlap (byteRegion s.cmdArgs.n0 s.cmdArgs.n1) (byteRegion s.cmdArgs.n2 7) = false →
    s.lmem.readBytes s.cmdArgs.n0 s.cmdArgs.n1 = some call → (∃ c ∈ call, c.toNat < 0x20 ∨ 0x7E < c.toNat) →
    exec (.addrEnc ssid last) s = .next { s with err := .callChar, errs := true, latched := none }) ∧
  ∀ (s : State) (ndigi : Nat) (table payload : List Byte) (k : Nat) (d : Descriptor),
    let a := s.cmdArgs
    let naddr := 2 + ndigi
    let flen := 7 * naddr + 4 + a.n2
    a.n0 + 8 * naddr ≤ s.lmemSize → (a.n2 = 0 ∨ a.n1 + a.n2 ≤ s.lmemSize) → a.n3 + flen ≤ s.lmemSize →
    overlap (byteRegion a.n0 (8 * naddr)) (byteRegion a.n3 flen) = false →
    overlap (byteRegion a.n1 a.n2) (byteRegion a.n3 flen) = false →
    s.lmem.readBytes a.n0 (8 * naddr) = some table → s.lmem.readBytes a.n1 a.n2 = some payload →
    (descriptors naddr table)[k]? = some d →
    (∀ j d', j < k → (descriptors naddr table)[j]? = some d' →
      (∀ c ∈ d'.call, printable c = true) ∧ d'.ssid.toNat ≤ 15) →
    ((∃ c ∈ d.call, printable c = false) →
      exec (.frameBuild ndigi) s = .next { s with err := .callChar, errs := true, latched := none }) ∧
    ((∀ c ∈ d.call, printable c = true) → 15 < d.ssid.toNat →
      exec (.frameBuild ndigi) s = .next { s with err := .ssid, errs := true, latched := none })

/-- 41_address_encoder.md R167: a callsign longer than 6 bytes is rejected with ERR_CALL_LEN and no other effect, whatever its
SSID, its bytes and its addresses are. -/
def Obligations.OverlongCallsignRejected : Prop :=
  ∀ (s : State) (ssid : Nat) (last : Bool), 6 < s.cmdArgs.n1 →
    exec (.addrEnc ssid last) s = .next { s with err := .callLen, errs := true, latched := none }

/-- 41_address_encoder.md R161, R162, R164, R169: an encoded address byte by byte (each callsign character upper-cased and shifted
left by one, a shifted space for each one missing, the SSID byte) and its structural laws, for a callsign of at most 6 printable
bytes and an SSID of at most 15. -/
def Obligations.EncodedAddressLaws : Prop :=
  (∀ (call : List Byte) (ssid : Nat) (last : Bool), call.length ≤ 6 → (∀ c ∈ call, printable c = true) → ssid ≤ 15 →
    let e := encodeAddress call ssid last
    e.length = 7 ∧
    (∀ (j : Nat) (c : Byte), call[j]? = some c →
      e[j]? = some ((if 0x61 ≤ c.toNat ∧ c.toNat ≤ 0x7A then c - 0x20#8 else c) <<< 1)) ∧
    (∀ j, call.length ≤ j → j < 6 → e[j]? = some 0x40#8) ∧
    e[6]? = some (0x60#8 ||| (BitVec.ofNat 8 ssid <<< 1) ||| (if last then 1#8 else 0#8)) ∧
    (∀ j, j < 6 →
      ∃ b : Byte, e[j]? = some b ∧ b.getLsbD 0 = false ∧ 0x20 ≤ (b >>> 1).toNat ∧ (b >>> 1).toNat ≤ 0x7E ∧
        ¬ (0x61 ≤ (b >>> 1).toNat ∧ (b >>> 1).toNat ≤ 0x7A)) ∧
    ∃ b : Byte, e[6]? = some b ∧ b.getLsbD 0 = last ∧ b &&& 0xE0#8 = 0x60#8 ∧ ((b >>> 1) &&& 0x0F#8).toNat = ssid) ∧
  ∀ (call call' : List Byte) (ssid ssid' : Nat) (last last' : Bool),
    call.length ≤ 6 → (∀ c ∈ call, printable c = true) → ssid ≤ 15 →
    call'.length ≤ 6 → (∀ c ∈ call', printable c = true) → ssid' ≤ 15 →
    encodeAddress call ssid last = encodeAddress call' ssid' last' →
    paddedCall call = paddedCall call' ∧ ssid = ssid' ∧ last = last'

/-! ### The frame assembler -/

/-- 43_frame_builder.md R194: FRAME_BUILD with its regions in range and apart and every descriptor legal stores the frame, leaves
the folded CRC and answers FLEN. -/
def Obligations.FrameBuildCompletes : Prop :=
  ∀ (s : State) (ndigi : Nat) (table payload : List Byte),
    let a := s.cmdArgs
    let naddr := 2 + ndigi
    let flen := 7 * naddr + 4 + a.n2
    a.n0 + 8 * naddr ≤ s.lmemSize → (a.n2 = 0 ∨ a.n1 + a.n2 ≤ s.lmemSize) → a.n3 + flen ≤ s.lmemSize →
    overlap (byteRegion a.n0 (8 * naddr)) (byteRegion a.n3 flen) = false →
    overlap (byteRegion a.n1 a.n2) (byteRegion a.n3 flen) = false →
    s.lmem.readBytes a.n0 (8 * naddr) = some table → s.lmem.readBytes a.n1 a.n2 = some payload →
    (∀ d ∈ descriptors naddr table, (∀ c ∈ d.call, printable c = true) ∧ d.ssid.toNat ≤ 15) →
    let body := addressField (descriptors naddr table) ++ [0x03#8, 0xF0#8] ++ payload
    let crc := crcFold 0xFFFF#16 body
    exec (.frameBuild ndigi) s =
      .next
        { s with
          lmem :=
            s.lmem.writeBytes a.n3
              (body ++ [(crc ^^^ 0xFFFF#16).extractLsb' 0 8, (crc ^^^ 0xFFFF#16).extractLsb' 8 8]),
          units := { s.units with crc := crc }, result := BitVec.ofNat 32 flen, err := .none, latched := none }

/-- 43_frame_builder.md R191, R192, R194, R195, R198: descriptor i of the table has as its callsign the bytes before the first 0x00
of table bytes 8i to 8i + 5 (all six if none is 0x00) and as its SSID byte 8i + 6; frame bytes 7i to 7i + 6 are its encoded address,
"is last" for the last one only; then the control and protocol-ID bytes, the payload and the FCS. The length of the frame, its
residue, and that exactly the last address carries the "is last" bit. -/
def Obligations.FrameLaws : Prop :=
  ∀ (ndigi : Nat) (table payload : List Byte), table.length = 8 * (2 + ndigi) →
    let frame := withFcs (frameBody (descriptors (2 + ndigi) table) payload)
    (descriptors (2 + ndigi) table).length = 2 + ndigi ∧
    (∀ i, i < 2 + ndigi →
      let field := (table.drop (8 * i)).take 6
      ∃ d, (descriptors (2 + ndigi) table)[i]? = some d ∧ table[8 * i + 6]? = some d.ssid ∧
        (∃ ignored, field = d.call ++ ignored) ∧ (∀ c ∈ d.call, c ≠ 0x00#8) ∧
        (d.call.length < 6 → field[d.call.length]? = some 0x00#8) ∧
        (frame.drop (7 * i)).take 7 = encodeAddress d.call d.ssid.toNat (decide (i = 1 + ndigi))) ∧
    frame.length = 7 * (2 + ndigi) + 4 + payload.length ∧
    crcFold 0xFFFF#16 frame = 0xF0B8#16 ∧
    frame[7 * (2 + ndigi)]? = some 0x03#8 ∧ frame[7 * (2 + ndigi) + 1]? = some 0xF0#8 ∧
    (frame.drop (7 * (2 + ndigi) + 2)).take payload.length = payload ∧
    ∀ i, i < 2 + ndigi → ∃ b, frame[7 * i + 6]? = some b ∧ b.getLsbD 0 = decide (i = 1 + ndigi)

/-! ### The bit transformer -/

/-- 44_bit_transformer.md R210, R211: STUFF_RESET clears the count; STUFF_BIT answers 0x100 for a 0, 0x101 for a 1 below the
fifth, 0x201 for the fifth 1, with the count each leaves. -/
def Obligations.StuffBitCommandsComplete : Prop :=
  ∀ s : State,
    exec .stuffReset s =
      .next { s with units := { s.units with onesCnt := 0 }, result := 0, err := .none, latched := none } ∧
    exec (.stuffBit false) s =
      .next { s with units := { s.units with onesCnt := 0 }, result := 0x100, err := .none, latched := none } ∧
    (s.units.onesCnt.toNat < 4 →
      exec (.stuffBit true) s =
        .next
          { s with
            units := { s.units with onesCnt := s.units.onesCnt + 1 }, result := 0x101, err := .none, latched := none }) ∧
    (s.units.onesCnt.toNat = 4 →
      exec (.stuffBit true) s =
        .next { s with units := { s.units with onesCnt := 0 }, result := 0x201, err := .none, latched := none })

/-- 44_bit_transformer.md R212: STUFF_BUF with its regions in range and apart, its input written and enough capacity stores the
stuffed bits, continuing from ONES_CNT. -/
def Obligations.StuffBufCompletes : Prop :=
  ∀ (s : State) (bits : Bits),
    let a := s.cmdArgs
    let o := stuff s.units.onesCnt.toNat bits
    inRange s.lmemSize (bitRegion a.n0 a.n1) = true → inRange s.lmemSize (bitRegion a.n2 a.n3) = true →
    overlap (bitRegion a.n0 a.n1) (bitRegion a.n2 a.n3) = false →
    s.lmem.readBits a.n0 a.n1 = some bits → o.1.length ≤ a.n3 →
    exec .stuffBuf s =
      .next
        { s with
          lmem := s.lmem.writeBytes a.n2 (packBits o.1),
          units := { s.units with onesCnt := BitVec.ofNat 3 o.2 }, result := BitVec.ofNat 32 o.1.length,
          err := .none, latched := none }

/-- 44_bit_transformer.md R209, R213: a stuffed sequence has no run of six 1s, is no shorter than its input and differs from it by
inserted zeros only, equals an input with no run of five 1s, and destuffs to its input; a sequence that ends in a run of exactly
five 1s gets a 0 after them, as its last output bit. -/
def Obligations.StuffingLaws : Prop :=
  (∀ r : Bits,
    let s := (stuff 0 r).1
    ¬ List.replicate 6 true <:+: s ∧ r.length ≤ s.length ∧ s.count true = r.count true ∧
    (¬ List.replicate 5 true <:+: r → s = r) ∧ destuff 0 s = r) ∧
  ∀ r : Bits, (r = [] ∨ r.getLast? = some false) →
    stuff 0 (r ++ [true, true, true, true, true]) =
      ((stuff 0 r).1 ++ [true, true, true, true, true, false], 0)

/-- 44_bit_transformer.md R218: FRAME_WRAP with PREPEND ≥ POSTPEND, its regions in range and apart, its input written and enough
capacity stores the framed bits and changes no unit state. -/
def Obligations.FrameWrapCompletes : Prop :=
  ∀ (s : State) (bits : Bits),
    let a := s.cmdArgs
    let w := wrap bits s.cmdCfg.prepend s.cmdCfg.postpend
    s.cmdCfg.postpend ≤ s.cmdCfg.prepend →
    inRange s.lmemSize (bitRegion a.n0 a.n1) = true → inRange s.lmemSize (bitRegion a.n2 a.n3) = true →
    overlap (bitRegion a.n0 a.n1) (bitRegion a.n2 a.n3) = false →
    s.lmem.readBits a.n0 a.n1 = some bits → w.length ≤ a.n3 →
    exec .frameWrap s =
      .next
        { s with
          lmem := s.lmem.writeBytes a.n2 (packBits w), result := BitVec.ofNat 32 w.length, err := .none,
          latched := none }

/-- 44_bit_transformer.md R214 to R217: the framed sequence bit by bit for a non-empty input (8·(P − Q) zeros, Q flags, the input,
Q flags), its length, and the empty output for an empty input. -/
def Obligations.FramingLayout : Prop :=
  ∀ (s : Bits) (p q : Nat), q ≤ p →
    wrap [] p q = [] ∧
    (s ≠ [] →
      (wrap s p q).length = 8 * (p + q) + s.length ∧
      (∀ k, k < 8 * (p - q) → (wrap s p q)[k]? = some false) ∧
      (∀ k, k < 8 * q →
        (wrap s p q)[8 * (p - q) + k]? = some (decide (k % 8 ≠ 0 ∧ k % 8 ≠ 7)) ∧
        (wrap s p q)[8 * p + s.length + k]? = some (decide (k % 8 ≠ 0 ∧ k % 8 ≠ 7))) ∧
      ∀ k, k < s.length → (wrap s p q)[8 * p + k]? = s[k]?)

/-- 44_bit_transformer.md R222, R223: NRZI_SET sets the line state; NRZI_BIT toggles it for a 0, holds it for a 1, and answers it
as a one-bit packet. -/
def Obligations.NrziBitCommandsComplete : Prop :=
  ∀ s : State,
    (∀ bit : Bool,
      exec (.nrziSet bit) s =
        .next
          { s with
            units := { s.units with lineState := bit }, result := if bit then 1 else 0, err := .none, latched := none }) ∧
    exec (.nrziBit false) s =
      .next
        { s with
          units := { s.units with lineState := !s.units.lineState },
          result := if s.units.lineState then 0x100 else 0x101, err := .none, latched := none } ∧
    exec (.nrziBit true) s =
      .next { s with result := if s.units.lineState then 0x101 else 0x100, err := .none, latched := none }

/-- 44_bit_transformer.md R224: NRZI_BUF with its regions in range and apart, its input written and enough capacity stores the
line bits, continuing from LINE_STATE. -/
def Obligations.NrziBufCompletes : Prop :=
  ∀ (s : State) (bits : Bits),
    let a := s.cmdArgs
    let o := nrzi s.units.lineState bits
    inRange s.lmemSize (bitRegion a.n0 a.n1) = true → inRange s.lmemSize (bitRegion a.n2 a.n3) = true →
    overlap (bitRegion a.n0 a.n1) (bitRegion a.n2 a.n3) = false →
    s.lmem.readBits a.n0 a.n1 = some bits → a.n1 ≤ a.n3 →
    exec .nrziBuf s =
      .next
        { s with
          lmem := s.lmem.writeBytes a.n2 (packBits o.1), units := { s.units with lineState := o.2 },
          result := BitVec.ofNat 32 a.n1, err := .none, latched := none }

/-- 44_bit_transformer.md R225: an input bit is 1 exactly when the line state did not change at it, so NRZI is invertible given
the initial state; the final state is the last output bit. -/
def Obligations.NrziInverse : Prop :=
  ∀ (st : Bool) (b : Bits),
    let o := (nrzi st b).1
    o.length = b.length ∧
    (∀ k, k < b.length → (b[k]? = some true ↔ o[k]? = if k = 0 then some st else o[k - 1]?)) ∧
    (1 ≤ b.length → o[b.length - 1]? = some (nrzi st b).2) ∧ nrziDecode st o = b

/-- 44_bit_transformer.md R226: LINE_ENCODE with PREPEND ≥ POSTPEND, its regions in range and apart, its frame written and enough
capacity stores the line-encoded bits, starting its count at 0 and its line state at NRZI_INIT. -/
def Obligations.LineEncodeCompletes : Prop :=
  ∀ (s : State) (frame : List Byte),
    let a := s.cmdArgs
    let c := s.cmdCfg
    let st := stuff 0 (bitsOfBytes frame)
    let o := nrzi c.nrziInit (wrap st.1 c.prepend c.postpend)
    c.postpend ≤ c.prepend →
    inRange s.lmemSize (byteRegion a.n0 a.n1) = true → inRange s.lmemSize (bitRegion a.n2 a.n3) = true →
    overlap (byteRegion a.n0 a.n1) (bitRegion a.n2 a.n3) = false →
    s.lmem.readBytes a.n0 a.n1 = some frame → o.1.length ≤ a.n3 →
    exec .lineEncode s =
      .next
        { s with
          lmem := s.lmem.writeBytes a.n2 (packBits o.1),
          units := { s.units with onesCnt := BitVec.ofNat 3 st.2, lineState := o.2 },
          result := BitVec.ofNat 32 o.1.length, err := .none, latched := none }

/-- 44_bit_transformer.md R228, the document's core correctness invariant: the line-encoded bits of a non-empty frame,
NRZI-decoded from NRZI_INIT, unframed and destuffed, are the bits of the frame; and so are, decoded in the same way, the RESULT
bits that a LINE_ENCODE of a non-empty frame leaves in LMEM when it succeeds. -/
def Obligations.LineEncodeRoundTrip : Prop :=
  (∀ (c : Cfg) (frame : List Byte), frame ≠ [] → c.postpend ≤ c.prepend →
    destuff 0 (unframe c.prepend c.postpend (nrziDecode c.nrziInit (lineEncoded c frame).1)) = bitsOfBytes frame) ∧
  ∀ (s t : State) (frame : List Byte), s.lmem.readBytes s.cmdArgs.n0 s.cmdArgs.n1 = some frame → frame ≠ [] →
    exec .lineEncode s = .next t → t.err = .none →
    ∃ bits, t.lmem.readBits s.cmdArgs.n2 t.result.toNat = some bits ∧
      destuff 0 (unframe s.cmdCfg.prepend s.cmdCfg.postpend (nrziDecode s.cmdCfg.nrziInit bits)) = bitsOfBytes frame

/-- 40_common.md R136 (step 7) and the rules of STUFF_BUF, FRAME_WRAP, NRZI_BUF, LINE_ENCODE and SYNTH: with every earlier check
passed and the input written, an output longer than the capacity A[3] is ERR_CAPACITY, with no other effect. -/
def Obligations.CapacityErrors : Prop :=
  ∀ (i : Instr) (s : State),
    let a := s.cmdArgs
    let c := s.cmdCfg
    let failed : State := { s with err := .capacity, errs := true, latched := none }
    firstFailing (checksOf i a c) = none → (∀ r ∈ inputsOf i a ++ outputsOf i a, inRange s.lmemSize r = true) →
    (∀ r ∈ inputsOf i a, ∀ q ∈ outputsOf i a, overlap r q = false) →
    (∀ bits, s.lmem.readBits a.n0 a.n1 = some bits →
      (i = .stuffBuf → a.n3 < (stuff s.units.onesCnt.toNat bits).1.length → exec i s = .next failed) ∧
      (i = .frameWrap → a.n3 < (wrap bits c.prepend c.postpend).length → exec i s = .next failed) ∧
      (i = .nrziBuf → a.n3 < a.n1 → exec i s = .next failed) ∧
      (i = .synth → a.n3 < sampleCount c a.n1 → exec i s = .next failed)) ∧
    ∀ frame, s.lmem.readBytes a.n0 a.n1 = some frame → i = .lineEncode →
      a.n3 < (lineEncoded c frame).1.length → exec i s = .next failed

/-! ### The sine table and the synthesizer -/

/-- 45_sine_lut.md R244: LUT_READ answers the sign-extended entry and changes no unit state; the entries the rule names. -/
def Obligations.LutReadCompletes : Prop :=
  (∀ (s : State) (index : Byte),
    exec (.lutRead index) s =
      .next { s with result := BitVec.ofInt 32 (lut index).toInt, err := .none, latched := none }) ∧
  (lut 0).signExtend 32 = 0x00000000 ∧ (lut 64).signExtend 32 = 0x00007FFF ∧ (lut 192).signExtend 32 = 0xFFFF8001 ∧
  (lut 129).signExtend 32 = 0xFFFFFCDC ∧ (lut 38).signExtend 32 = 0x000066CF

/-- 45_sine_lut.md R243: the properties of the table. -/
def Obligations.LutProperties : Prop :=
  (lut 0).toInt = 0 ∧ (lut 128).toInt = 0 ∧ (lut 64).toInt = 32767 ∧ (lut 192).toInt = -32767 ∧
  (∀ i : Nat, i ≤ 128 → lut (BitVec.ofNat 8 i) = lut (BitVec.ofNat 8 (128 - i))) ∧
  (∀ i : Nat, 1 ≤ i → i ≤ 255 → (lut (BitVec.ofNat 8 i)).toInt = -(lut (BitVec.ofNat 8 (256 - i))).toInt) ∧
  (∀ i : Byte, -32767 ≤ (lut i).toInt ∧ (lut i).toInt ≤ 32767 ∧ ((lut i).signExtend 32).toInt = (lut i).toInt) ∧
  ((List.range 256).map fun i => (lut (BitVec.ofNat 8 i)).toInt).sum = 0 ∧
  (∀ i : Nat, 1 ≤ i → i ≤ 127 → 0 < (lut (BitVec.ofNat 8 i)).toInt) ∧
  ∀ i : Nat, 129 ≤ i → i ≤ 255 → (lut (BitVec.ofNat 8 i)).toInt < 0

/-- 46_tone_synth.md R251, R253 to R256: SYNTH_PREP with a legal configuration writes the four steps and answers SPB. -/
def Obligations.SynthPrepCompletes : Prop :=
  ∀ s : State,
    let c := s.cmdCfg
    let sr := c.sampleRate.toNat
    let br := c.bitRate.toNat
    1 ≤ sr → 1 ≤ br → br ≤ sr → 1 ≤ br * 2 ^ 16 / sr →
    exec .synthPrep s =
      .next
        { s with
          units :=
            { s.units with
              markStep := BitVec.ofNat 32 (c.markFreq.toNat * 256 * 2 ^ 16 / sr),
              spaceStep := BitVec.ofNat 32 (c.spaceFreq.toNat * 256 * 2 ^ 16 / sr),
              bitStep := BitVec.ofNat 32 (br * 2 ^ 16 / sr), spb := BitVec.ofNat 32 (sr / br) },
          result := BitVec.ofNat 32 (sr / br), err := .none, latched := none }

/-- 46_tone_synth.md R262: SYNTH with a legal configuration, its regions in range and apart, its input written and enough capacity
for the mode's length stores the samples of the mode's algorithm and leaves its accumulators and the steps. -/
def Obligations.SynthCompletes : Prop :=
  ∀ (s : State) (bits : Bits),
    let a := s.cmdArgs
    let c := s.cmdCfg
    let sr := c.sampleRate.toNat
    let br := c.bitRate.toNat
    let ms := BitVec.ofNat 32 (c.markFreq.toNat * 256 * 2 ^ 16 / sr)
    let ss := BitVec.ofNat 32 (c.spaceFreq.toNat * 256 * 2 ^ 16 / sr)
    let bs := br * 2 ^ 16 / sr
    let len := if c.synthMode then a.n1 * (sr / br) else a.n1 * sr / br
    let exact := synthExact ms ss bs len bits
    let naive := synthNaive ms ss (sr / br) bits
    1 ≤ sr → 1 ≤ br → br ≤ sr → 1 ≤ bs →
    inRange s.lmemSize (bitRegion a.n0 a.n1) = true → inRange s.lmemSize (sampleRegion a.n2 a.n3) = true →
    overlap (bitRegion a.n0 a.n1) (sampleRegion a.n2 a.n3) = false →
    s.lmem.readBits a.n0 a.n1 = some bits → len ≤ a.n3 →
    exec .synth s =
      .next
        { s with
          lmem := s.lmem.writeBytes a.n2 (packSamples (if c.synthMode then naive.1 else exact.1)),
          units :=
            { s.units with
              toneAcc := if c.synthMode then naive.2 else exact.2.1,
              bitAcc := if c.synthMode then 0 else BitVec.ofNat 32 exact.2.2,
              markStep := ms, spaceStep := ss, bitStep := BitVec.ofNat 32 bs, spb := BitVec.ofNat 32 (sr / br) },
          result := BitVec.ofNat 32 len, err := .none, latched := none }

/-- 46_tone_synth.md R258, R260, R261: the lengths of the two variants, and when they differ; at 8000 Hz and 1200 baud exactly
from two bits on. -/
def Obligations.SampleLengths : Prop :=
  ∀ c : Cfg, 1 ≤ c.bitRate.toNat →
    (∀ n : Nat,
      let sr := c.sampleRate.toNat
      let br := c.bitRate.toNat
      n * (sr / br) ≤ n * sr / br ∧ n * sr / br - n * (sr / br) = n * (sr % br) / br ∧
        (n * sr / br ≠ n * (sr / br) ↔ br ≤ n * (sr % br))) ∧
    (∀ bits : Bits,
      (synthesized c bits).1.length =
        if c.synthMode then bits.length * (c.sampleRate.toNat / c.bitRate.toNat)
        else bits.length * c.sampleRate.toNat / c.bitRate.toNat) ∧
    (c.sampleRate = 8000 → c.bitRate = 1200 → ∀ n : Nat, exactLength c n ≠ naiveLength c n ↔ 2 ≤ n)

/-- 46_tone_synth.md R258, R260: the closed forms of the two algorithms. In the exact variant the bit active at sample k is
floor(k·bs / 2^16), always an input bit, and the final bit accumulator is (L·bs) mod 2^16; in the naive variant it is
floor(k / spb). -/
def Obligations.SynthesisClosedForms : Prop :=
  ∀ (ms ss : Word) (sr br : Nat) (bits : Bits), 1 ≤ br → br ≤ sr → 1 ≤ br * 2 ^ 16 / sr →
    let bs := br * 2 ^ 16 / sr
    let len := bits.length * sr / br
    let spb := sr / br
    let exact := synthExact ms ss bs len bits
    let naive := synthNaive ms ss spb bits
    let taExact := toneSum ms ss bits fun k => k * bs / 2 ^ 16
    let taNaive := toneSum ms ss bits fun k => k / spb
    (∀ k, k < len →
      k * bs / 2 ^ 16 < bits.length ∧ exact.1[k]? = some (lut ((taExact k).extractLsb' 16 8))) ∧
    exact.1.length = len ∧ exact.2.1 = taExact len ∧ exact.2.2 = len * bs % 2 ^ 16 ∧
    (∀ k, k < bits.length * spb →
      k / spb < bits.length ∧ naive.1[k]? = some (lut ((taNaive k).extractLsb' 16 8))) ∧
    naive.1.length = bits.length * spb ∧ naive.2 = taNaive (bits.length * spb)

/-- 46_tone_synth.md R266 (item 1): when SR = BR·2^p with p in 0..16 the two modes give identical samples, accumulators and
lengths. -/
def Obligations.VariantsAgreeAtPowersOfTwo : Prop :=
  ∀ (c c' : Cfg) (bits : Bits) (p : Nat), p ≤ 16 → 1 ≤ c.bitRate.toNat →
    c.sampleRate.toNat = c.bitRate.toNat * 2 ^ p → c'.sampleRate = c.sampleRate → c'.bitRate = c.bitRate →
    c'.markFreq = c.markFreq → c'.spaceFreq = c.spaceFreq → c.synthMode = false → c'.synthMode = true →
    synthesized c bits = synthesized c' bits ∧ sampleCount c bits.length = sampleCount c' bits.length

/-- 46_tone_synth.md R264, 70_reset_and_hazards.md R314: FRAME_BUILD, LINE_ENCODE and SYNTH do not depend on the unit state they
find: with any other unit state they give the same memory, RESULT and code, and on success the same values in the registers they
write. -/
def Obligations.WholeCommandsIgnoreUnitState : Prop :=
  ∀ (s t : State) (u : Units),
    (∀ ndigi, exec (.frameBuild ndigi) s = .next t →
      ∃ t', exec (.frameBuild ndigi) { s with units := u } = .next t' ∧ t'.lmem = t.lmem ∧ t'.result = t.result ∧
        t'.err = t.err ∧ (t.err = .none → t'.units.crc = t.units.crc)) ∧
    (exec .lineEncode s = .next t →
      ∃ t', exec .lineEncode { s with units := u } = .next t' ∧ t'.lmem = t.lmem ∧ t'.result = t.result ∧
        t'.err = t.err ∧
        (t.err = .none → t'.units.onesCnt = t.units.onesCnt ∧ t'.units.lineState = t.units.lineState)) ∧
    (exec .synth s = .next t →
      ∃ t', exec .synth { s with units := u } = .next t' ∧ t'.lmem = t.lmem ∧ t'.result = t.result ∧ t'.err = t.err ∧
        (t.err = .none →
          t'.units.toneAcc = t.units.toneAcc ∧ t'.units.bitAcc = t.units.bitAcc ∧
            t'.units.markStep = t.units.markStep ∧ t'.units.spaceStep = t.units.spaceStep ∧
            t'.units.bitStep = t.units.bitStep ∧ t'.units.spb = t.units.spb))
end

