-- ==== Sys2Proof/Laws/State.lean ====
section
/-!
SUPPORT. What each register update does to each field of State: one lemma per field per update, true by rfl.
-/

namespace Sys2Proof.Machine

variable (s : State)

/-! ### setResult -/

@[simp] theorem State.setResult_args (v : Word) : (s.setResult v).args = s.args := rfl
@[simp] theorem State.setResult_cfg (v : Word) : (s.setResult v).cfg = s.cfg := rfl
@[simp] theorem State.setResult_result (v : Word) : (s.setResult v).result = v := rfl
@[simp] theorem State.setResult_err (v : Word) : (s.setResult v).err = s.err := rfl
@[simp] theorem State.setResult_errs (v : Word) : (s.setResult v).errs = s.errs := rfl
@[simp] theorem State.setResult_ovr (v : Word) : (s.setResult v).ovr = s.ovr := rfl
@[simp] theorem State.setResult_latched (v : Word) : (s.setResult v).latched = s.latched := rfl
@[simp] theorem State.setResult_units (v : Word) : (s.setResult v).units = s.units := rfl
@[simp] theorem State.setResult_lmem (v : Word) : (s.setResult v).lmem = s.lmem := rfl
@[simp] theorem State.setResult_lmemSize (v : Word) : (s.setResult v).lmemSize = s.lmemSize := rfl
@[simp] theorem State.setResult_schedule (v : Word) : (s.setResult v).schedule = s.schedule := rfl
@[simp] theorem State.setResult_draws (v : Word) : (s.setResult v).draws = s.draws := rfl
@[simp] theorem State.setResult_readData (v : Word) : (s.setResult v).readData = s.readData := rfl

/-! ### setCrc -/

@[simp] theorem State.setCrc_args (v : Half) : (s.setCrc v).args = s.args := rfl
@[simp] theorem State.setCrc_cfg (v : Half) : (s.setCrc v).cfg = s.cfg := rfl
@[simp] theorem State.setCrc_result (v : Half) : (s.setCrc v).result = s.result := rfl
@[simp] theorem State.setCrc_err (v : Half) : (s.setCrc v).err = s.err := rfl
@[simp] theorem State.setCrc_errs (v : Half) : (s.setCrc v).errs = s.errs := rfl
@[simp] theorem State.setCrc_ovr (v : Half) : (s.setCrc v).ovr = s.ovr := rfl
@[simp] theorem State.setCrc_latched (v : Half) : (s.setCrc v).latched = s.latched := rfl
@[simp] theorem State.setCrc_units (v : Half) : (s.setCrc v).units = { s.units with crc := v } := rfl
@[simp] theorem State.setCrc_lmem (v : Half) : (s.setCrc v).lmem = s.lmem := rfl
@[simp] theorem State.setCrc_lmemSize (v : Half) : (s.setCrc v).lmemSize = s.lmemSize := rfl
@[simp] theorem State.setCrc_schedule (v : Half) : (s.setCrc v).schedule = s.schedule := rfl
@[simp] theorem State.setCrc_draws (v : Half) : (s.setCrc v).draws = s.draws := rfl
@[simp] theorem State.setCrc_readData (v : Half) : (s.setCrc v).readData = s.readData := rfl

/-! ### setOnesCnt -/

@[simp] theorem State.setOnesCnt_args (n : Nat) : (s.setOnesCnt n).args = s.args := rfl
@[simp] theorem State.setOnesCnt_cfg (n : Nat) : (s.setOnesCnt n).cfg = s.cfg := rfl
@[simp] theorem State.setOnesCnt_result (n : Nat) : (s.setOnesCnt n).result = s.result := rfl
@[simp] theorem State.setOnesCnt_err (n : Nat) : (s.setOnesCnt n).err = s.err := rfl
@[simp] theorem State.setOnesCnt_errs (n : Nat) : (s.setOnesCnt n).errs = s.errs := rfl
@[simp] theorem State.setOnesCnt_ovr (n : Nat) : (s.setOnesCnt n).ovr = s.ovr := rfl
@[simp] theorem State.setOnesCnt_latched (n : Nat) : (s.setOnesCnt n).latched = s.latched := rfl
@[simp] theorem State.setOnesCnt_units (n : Nat) : (s.setOnesCnt n).units = { s.units with onesCnt := BitVec.ofNat 3 n } := rfl
@[simp] theorem State.setOnesCnt_lmem (n : Nat) : (s.setOnesCnt n).lmem = s.lmem := rfl
@[simp] theorem State.setOnesCnt_lmemSize (n : Nat) : (s.setOnesCnt n).lmemSize = s.lmemSize := rfl
@[simp] theorem State.setOnesCnt_schedule (n : Nat) : (s.setOnesCnt n).schedule = s.schedule := rfl
@[simp] theorem State.setOnesCnt_draws (n : Nat) : (s.setOnesCnt n).draws = s.draws := rfl
@[simp] theorem State.setOnesCnt_readData (n : Nat) : (s.setOnesCnt n).readData = s.readData := rfl

/-! ### setLineState -/

@[simp] theorem State.setLineState_args (b : Bool) : (s.setLineState b).args = s.args := rfl
@[simp] theorem State.setLineState_cfg (b : Bool) : (s.setLineState b).cfg = s.cfg := rfl
@[simp] theorem State.setLineState_result (b : Bool) : (s.setLineState b).result = s.result := rfl
@[simp] theorem State.setLineState_err (b : Bool) : (s.setLineState b).err = s.err := rfl
@[simp] theorem State.setLineState_errs (b : Bool) : (s.setLineState b).errs = s.errs := rfl
@[simp] theorem State.setLineState_ovr (b : Bool) : (s.setLineState b).ovr = s.ovr := rfl
@[simp] theorem State.setLineState_latched (b : Bool) : (s.setLineState b).latched = s.latched := rfl
@[simp] theorem State.setLineState_units (b : Bool) : (s.setLineState b).units = { s.units with lineState := b } := rfl
@[simp] theorem State.setLineState_lmem (b : Bool) : (s.setLineState b).lmem = s.lmem := rfl
@[simp] theorem State.setLineState_lmemSize (b : Bool) : (s.setLineState b).lmemSize = s.lmemSize := rfl
@[simp] theorem State.setLineState_schedule (b : Bool) : (s.setLineState b).schedule = s.schedule := rfl
@[simp] theorem State.setLineState_draws (b : Bool) : (s.setLineState b).draws = s.draws := rfl
@[simp] theorem State.setLineState_readData (b : Bool) : (s.setLineState b).readData = s.readData := rfl

/-! ### setAccs -/

@[simp] theorem State.setAccs_args (w : Word) (n : Nat) : (s.setAccs w n).args = s.args := rfl
@[simp] theorem State.setAccs_cfg (w : Word) (n : Nat) : (s.setAccs w n).cfg = s.cfg := rfl
@[simp] theorem State.setAccs_result (w : Word) (n : Nat) : (s.setAccs w n).result = s.result := rfl
@[simp] theorem State.setAccs_err (w : Word) (n : Nat) : (s.setAccs w n).err = s.err := rfl
@[simp] theorem State.setAccs_errs (w : Word) (n : Nat) : (s.setAccs w n).errs = s.errs := rfl
@[simp] theorem State.setAccs_ovr (w : Word) (n : Nat) : (s.setAccs w n).ovr = s.ovr := rfl
@[simp] theorem State.setAccs_latched (w : Word) (n : Nat) : (s.setAccs w n).latched = s.latched := rfl
@[simp] theorem State.setAccs_units (w : Word) (n : Nat) : (s.setAccs w n).units = { s.units with toneAcc := w, bitAcc := BitVec.ofNat 32 n } := rfl
@[simp] theorem State.setAccs_lmem (w : Word) (n : Nat) : (s.setAccs w n).lmem = s.lmem := rfl
@[simp] theorem State.setAccs_lmemSize (w : Word) (n : Nat) : (s.setAccs w n).lmemSize = s.lmemSize := rfl
@[simp] theorem State.setAccs_schedule (w : Word) (n : Nat) : (s.setAccs w n).schedule = s.schedule := rfl
@[simp] theorem State.setAccs_draws (w : Word) (n : Nat) : (s.setAccs w n).draws = s.draws := rfl
@[simp] theorem State.setAccs_readData (w : Word) (n : Nat) : (s.setAccs w n).readData = s.readData := rfl

/-! ### setSteps -/

@[simp] theorem State.setSteps_args (x y : Word) (n k : Nat) : (s.setSteps x y n k).args = s.args := rfl
@[simp] theorem State.setSteps_cfg (x y : Word) (n k : Nat) : (s.setSteps x y n k).cfg = s.cfg := rfl
@[simp] theorem State.setSteps_result (x y : Word) (n k : Nat) : (s.setSteps x y n k).result = s.result := rfl
@[simp] theorem State.setSteps_err (x y : Word) (n k : Nat) : (s.setSteps x y n k).err = s.err := rfl
@[simp] theorem State.setSteps_errs (x y : Word) (n k : Nat) : (s.setSteps x y n k).errs = s.errs := rfl
@[simp] theorem State.setSteps_ovr (x y : Word) (n k : Nat) : (s.setSteps x y n k).ovr = s.ovr := rfl
@[simp] theorem State.setSteps_latched (x y : Word) (n k : Nat) : (s.setSteps x y n k).latched = s.latched := rfl
@[simp] theorem State.setSteps_units (x y : Word) (n k : Nat) : (s.setSteps x y n k).units = 
    { s.units with
      markStep := x, spaceStep := y, bitStep := BitVec.ofNat 32 n, spb := BitVec.ofNat 32 k } := rfl
@[simp] theorem State.setSteps_lmem (x y : Word) (n k : Nat) : (s.setSteps x y n k).lmem = s.lmem := rfl
@[simp] theorem State.setSteps_lmemSize (x y : Word) (n k : Nat) : (s.setSteps x y n k).lmemSize = s.lmemSize := rfl
@[simp] theorem State.setSteps_schedule (x y : Word) (n k : Nat) : (s.setSteps x y n k).schedule = s.schedule := rfl
@[simp] theorem State.setSteps_draws (x y : Word) (n k : Nat) : (s.setSteps x y n k).draws = s.draws := rfl
@[simp] theorem State.setSteps_readData (x y : Word) (n k : Nat) : (s.setSteps x y n k).readData = s.readData := rfl

/-! ### store -/

@[simp] theorem State.store_args (a : Nat) (l : List Byte) : (s.store a l).args = s.args := rfl
@[simp] theorem State.store_cfg (a : Nat) (l : List Byte) : (s.store a l).cfg = s.cfg := rfl
@[simp] theorem State.store_result (a : Nat) (l : List Byte) : (s.store a l).result = s.result := rfl
@[simp] theorem State.store_err (a : Nat) (l : List Byte) : (s.store a l).err = s.err := rfl
@[simp] theorem State.store_errs (a : Nat) (l : List Byte) : (s.store a l).errs = s.errs := rfl
@[simp] theorem State.store_ovr (a : Nat) (l : List Byte) : (s.store a l).ovr = s.ovr := rfl
@[simp] theorem State.store_latched (a : Nat) (l : List Byte) : (s.store a l).latched = s.latched := rfl
@[simp] theorem State.store_units (a : Nat) (l : List Byte) : (s.store a l).units = s.units := rfl
@[simp] theorem State.store_lmem (a : Nat) (l : List Byte) : (s.store a l).lmem = s.lmem.writeBytes a l := rfl
@[simp] theorem State.store_lmemSize (a : Nat) (l : List Byte) : (s.store a l).lmemSize = s.lmemSize := rfl
@[simp] theorem State.store_schedule (a : Nat) (l : List Byte) : (s.store a l).schedule = s.schedule := rfl
@[simp] theorem State.store_draws (a : Nat) (l : List Byte) : (s.store a l).draws = s.draws := rfl
@[simp] theorem State.store_readData (a : Nat) (l : List Byte) : (s.store a l).readData = s.readData := rfl

/-! ### setArgs -/

@[simp] theorem State.setArgs_args (x : Args) : (s.setArgs x).args = x := rfl
@[simp] theorem State.setArgs_cfg (x : Args) : (s.setArgs x).cfg = s.cfg := rfl
@[simp] theorem State.setArgs_result (x : Args) : (s.setArgs x).result = s.result := rfl
@[simp] theorem State.setArgs_err (x : Args) : (s.setArgs x).err = s.err := rfl
@[simp] theorem State.setArgs_errs (x : Args) : (s.setArgs x).errs = s.errs := rfl
@[simp] theorem State.setArgs_ovr (x : Args) : (s.setArgs x).ovr = s.ovr := rfl
@[simp] theorem State.setArgs_latched (x : Args) : (s.setArgs x).latched = s.latched := rfl
@[simp] theorem State.setArgs_units (x : Args) : (s.setArgs x).units = s.units := rfl
@[simp] theorem State.setArgs_lmem (x : Args) : (s.setArgs x).lmem = s.lmem := rfl
@[simp] theorem State.setArgs_lmemSize (x : Args) : (s.setArgs x).lmemSize = s.lmemSize := rfl
@[simp] theorem State.setArgs_schedule (x : Args) : (s.setArgs x).schedule = s.schedule := rfl
@[simp] theorem State.setArgs_draws (x : Args) : (s.setArgs x).draws = s.draws := rfl
@[simp] theorem State.setArgs_readData (x : Args) : (s.setArgs x).readData = s.readData := rfl

/-! ### setCfg -/

@[simp] theorem State.setCfg_args (x : Cfg) : (s.setCfg x).args = s.args := rfl
@[simp] theorem State.setCfg_cfg (x : Cfg) : (s.setCfg x).cfg = x := rfl
@[simp] theorem State.setCfg_result (x : Cfg) : (s.setCfg x).result = s.result := rfl
@[simp] theorem State.setCfg_err (x : Cfg) : (s.setCfg x).err = s.err := rfl
@[simp] theorem State.setCfg_errs (x : Cfg) : (s.setCfg x).errs = s.errs := rfl
@[simp] theorem State.setCfg_ovr (x : Cfg) : (s.setCfg x).ovr = s.ovr := rfl
@[simp] theorem State.setCfg_latched (x : Cfg) : (s.setCfg x).latched = s.latched := rfl
@[simp] theorem State.setCfg_units (x : Cfg) : (s.setCfg x).units = s.units := rfl
@[simp] theorem State.setCfg_lmem (x : Cfg) : (s.setCfg x).lmem = s.lmem := rfl
@[simp] theorem State.setCfg_lmemSize (x : Cfg) : (s.setCfg x).lmemSize = s.lmemSize := rfl
@[simp] theorem State.setCfg_schedule (x : Cfg) : (s.setCfg x).schedule = s.schedule := rfl
@[simp] theorem State.setCfg_draws (x : Cfg) : (s.setCfg x).draws = s.draws := rfl
@[simp] theorem State.setCfg_readData (x : Cfg) : (s.setCfg x).readData = s.readData := rfl

/-! ### setOvr -/

@[simp] theorem State.setOvr_args : (s.setOvr).args = s.args := rfl
@[simp] theorem State.setOvr_cfg : (s.setOvr).cfg = s.cfg := rfl
@[simp] theorem State.setOvr_result : (s.setOvr).result = s.result := rfl
@[simp] theorem State.setOvr_err : (s.setOvr).err = s.err := rfl
@[simp] theorem State.setOvr_errs : (s.setOvr).errs = s.errs := rfl
@[simp] theorem State.setOvr_ovr : (s.setOvr).ovr = true := rfl
@[simp] theorem State.setOvr_latched : (s.setOvr).latched = s.latched := rfl
@[simp] theorem State.setOvr_units : (s.setOvr).units = s.units := rfl
@[simp] theorem State.setOvr_lmem : (s.setOvr).lmem = s.lmem := rfl
@[simp] theorem State.setOvr_lmemSize : (s.setOvr).lmemSize = s.lmemSize := rfl
@[simp] theorem State.setOvr_schedule : (s.setOvr).schedule = s.schedule := rfl
@[simp] theorem State.setOvr_draws : (s.setOvr).draws = s.draws := rfl
@[simp] theorem State.setOvr_readData : (s.setOvr).readData = s.readData := rfl

/-! ### giveData -/

@[simp] theorem State.giveData_args (v : Word) : (s.giveData v).args = s.args := rfl
@[simp] theorem State.giveData_cfg (v : Word) : (s.giveData v).cfg = s.cfg := rfl
@[simp] theorem State.giveData_result (v : Word) : (s.giveData v).result = s.result := rfl
@[simp] theorem State.giveData_err (v : Word) : (s.giveData v).err = s.err := rfl
@[simp] theorem State.giveData_errs (v : Word) : (s.giveData v).errs = s.errs := rfl
@[simp] theorem State.giveData_ovr (v : Word) : (s.giveData v).ovr = s.ovr := rfl
@[simp] theorem State.giveData_latched (v : Word) : (s.giveData v).latched = s.latched := rfl
@[simp] theorem State.giveData_units (v : Word) : (s.giveData v).units = s.units := rfl
@[simp] theorem State.giveData_lmem (v : Word) : (s.giveData v).lmem = s.lmem := rfl
@[simp] theorem State.giveData_lmemSize (v : Word) : (s.giveData v).lmemSize = s.lmemSize := rfl
@[simp] theorem State.giveData_schedule (v : Word) : (s.giveData v).schedule = s.schedule := rfl
@[simp] theorem State.giveData_draws (v : Word) : (s.giveData v).draws = s.draws := rfl
@[simp] theorem State.giveData_readData (v : Word) : (s.giveData v).readData = some v := rfl

/-! ### giveUnspecified -/

@[simp] theorem State.giveUnspecified_args : (s.giveUnspecified).args = s.args := rfl
@[simp] theorem State.giveUnspecified_cfg : (s.giveUnspecified).cfg = s.cfg := rfl
@[simp] theorem State.giveUnspecified_result : (s.giveUnspecified).result = s.result := rfl
@[simp] theorem State.giveUnspecified_err : (s.giveUnspecified).err = s.err := rfl
@[simp] theorem State.giveUnspecified_errs : (s.giveUnspecified).errs = s.errs := rfl
@[simp] theorem State.giveUnspecified_ovr : (s.giveUnspecified).ovr = s.ovr := rfl
@[simp] theorem State.giveUnspecified_latched : (s.giveUnspecified).latched = s.latched := rfl
@[simp] theorem State.giveUnspecified_units : (s.giveUnspecified).units = s.units := rfl
@[simp] theorem State.giveUnspecified_lmem : (s.giveUnspecified).lmem = s.lmem := rfl
@[simp] theorem State.giveUnspecified_lmemSize : (s.giveUnspecified).lmemSize = s.lmemSize := rfl
@[simp] theorem State.giveUnspecified_schedule : (s.giveUnspecified).schedule = s.schedule := rfl
@[simp] theorem State.giveUnspecified_draws : (s.giveUnspecified).draws = s.draws + 1 := rfl
@[simp] theorem State.giveUnspecified_readData : (s.giveUnspecified).readData = some (Config.busyRead s.draws) := rfl

/-! ### clearSticky -/

@[simp] theorem State.clearSticky_args (v : Word) : (s.clearSticky v).args = s.args := rfl
@[simp] theorem State.clearSticky_cfg (v : Word) : (s.clearSticky v).cfg = s.cfg := rfl
@[simp] theorem State.clearSticky_result (v : Word) : (s.clearSticky v).result = s.result := rfl
@[simp] theorem State.clearSticky_err (v : Word) : (s.clearSticky v).err = s.err := rfl
@[simp] theorem State.clearSticky_errs (v : Word) : (s.clearSticky v).errs = (s.errs && !v.getLsbD 8) := rfl
@[simp] theorem State.clearSticky_ovr (v : Word) : (s.clearSticky v).ovr = (s.ovr && !v.getLsbD 9) := rfl
@[simp] theorem State.clearSticky_latched (v : Word) : (s.clearSticky v).latched = s.latched := rfl
@[simp] theorem State.clearSticky_units (v : Word) : (s.clearSticky v).units = s.units := rfl
@[simp] theorem State.clearSticky_lmem (v : Word) : (s.clearSticky v).lmem = s.lmem := rfl
@[simp] theorem State.clearSticky_lmemSize (v : Word) : (s.clearSticky v).lmemSize = s.lmemSize := rfl
@[simp] theorem State.clearSticky_schedule (v : Word) : (s.clearSticky v).schedule = s.schedule := rfl
@[simp] theorem State.clearSticky_draws (v : Word) : (s.clearSticky v).draws = s.draws := rfl
@[simp] theorem State.clearSticky_readData (v : Word) : (s.clearSticky v).readData = s.readData := rfl

/-! ### issue -/

@[simp] theorem State.issue_args (w : Word) : (s.issue w).args = s.args := rfl
@[simp] theorem State.issue_cfg (w : Word) : (s.issue w).cfg = s.cfg := rfl
@[simp] theorem State.issue_result (w : Word) : (s.issue w).result = s.result := rfl
@[simp] theorem State.issue_err (w : Word) : (s.issue w).err = .none := rfl
@[simp] theorem State.issue_errs (w : Word) : (s.issue w).errs = s.errs := rfl
@[simp] theorem State.issue_ovr (w : Word) : (s.issue w).ovr = s.ovr := rfl
@[simp] theorem State.issue_latched (w : Word) : (s.issue w).latched = some { word := w, args := s.args, cfg := s.cfg } := rfl
@[simp] theorem State.issue_units (w : Word) : (s.issue w).units = s.units := rfl
@[simp] theorem State.issue_lmem (w : Word) : (s.issue w).lmem = s.lmem := rfl
@[simp] theorem State.issue_lmemSize (w : Word) : (s.issue w).lmemSize = s.lmemSize := rfl
@[simp] theorem State.issue_schedule (w : Word) : (s.issue w).schedule = s.schedule := rfl
@[simp] theorem State.issue_draws (w : Word) : (s.issue w).draws = s.draws := rfl
@[simp] theorem State.issue_readData (w : Word) : (s.issue w).readData = s.readData := rfl

/-! ### fail -/

@[simp] theorem State.fail_args (e : ErrCode) : (s.fail e).args = s.args := rfl
@[simp] theorem State.fail_cfg (e : ErrCode) : (s.fail e).cfg = s.cfg := rfl
@[simp] theorem State.fail_result (e : ErrCode) : (s.fail e).result = s.result := rfl
@[simp] theorem State.fail_err (e : ErrCode) : (s.fail e).err = e := rfl
@[simp] theorem State.fail_errs (e : ErrCode) : (s.fail e).errs = true := rfl
@[simp] theorem State.fail_ovr (e : ErrCode) : (s.fail e).ovr = s.ovr := rfl
@[simp] theorem State.fail_latched (e : ErrCode) : (s.fail e).latched = none := rfl
@[simp] theorem State.fail_units (e : ErrCode) : (s.fail e).units = s.units := rfl
@[simp] theorem State.fail_lmem (e : ErrCode) : (s.fail e).lmem = s.lmem := rfl
@[simp] theorem State.fail_lmemSize (e : ErrCode) : (s.fail e).lmemSize = s.lmemSize := rfl
@[simp] theorem State.fail_schedule (e : ErrCode) : (s.fail e).schedule = s.schedule := rfl
@[simp] theorem State.fail_draws (e : ErrCode) : (s.fail e).draws = s.draws := rfl
@[simp] theorem State.fail_readData (e : ErrCode) : (s.fail e).readData = s.readData := rfl

/-! ### succeed -/

@[simp] theorem State.succeed_args : (s.succeed).args = s.args := rfl
@[simp] theorem State.succeed_cfg : (s.succeed).cfg = s.cfg := rfl
@[simp] theorem State.succeed_result : (s.succeed).result = s.result := rfl
@[simp] theorem State.succeed_err : (s.succeed).err = .none := rfl
@[simp] theorem State.succeed_errs : (s.succeed).errs = s.errs := rfl
@[simp] theorem State.succeed_ovr : (s.succeed).ovr = s.ovr := rfl
@[simp] theorem State.succeed_latched : (s.succeed).latched = none := rfl
@[simp] theorem State.succeed_units : (s.succeed).units = s.units := rfl
@[simp] theorem State.succeed_lmem : (s.succeed).lmem = s.lmem := rfl
@[simp] theorem State.succeed_lmemSize : (s.succeed).lmemSize = s.lmemSize := rfl
@[simp] theorem State.succeed_schedule : (s.succeed).schedule = s.schedule := rfl
@[simp] theorem State.succeed_draws : (s.succeed).draws = s.draws := rfl
@[simp] theorem State.succeed_readData : (s.succeed).readData = s.readData := rfl

/-! ### applyReset -/

@[simp] theorem State.applyReset_args : (s.applyReset).args = (State.resetOf s.lmemSize).args := rfl
@[simp] theorem State.applyReset_cfg : (s.applyReset).cfg = (State.resetOf s.lmemSize).cfg := rfl
@[simp] theorem State.applyReset_result : (s.applyReset).result = (State.resetOf s.lmemSize).result := rfl
@[simp] theorem State.applyReset_err : (s.applyReset).err = (State.resetOf s.lmemSize).err := rfl
@[simp] theorem State.applyReset_errs : (s.applyReset).errs = (State.resetOf s.lmemSize).errs := rfl
@[simp] theorem State.applyReset_ovr : (s.applyReset).ovr = (State.resetOf s.lmemSize).ovr := rfl
@[simp] theorem State.applyReset_latched : (s.applyReset).latched = none := rfl
@[simp] theorem State.applyReset_units : (s.applyReset).units = (State.resetOf s.lmemSize).units := rfl
@[simp] theorem State.applyReset_lmem : (s.applyReset).lmem = [] := rfl
@[simp] theorem State.applyReset_lmemSize : (s.applyReset).lmemSize = s.lmemSize := rfl
@[simp] theorem State.applyReset_schedule : (s.applyReset).schedule = s.schedule := rfl
@[simp] theorem State.applyReset_draws : (s.applyReset).draws = s.draws := rfl
@[simp] theorem State.applyReset_readData : (s.applyReset).readData = s.readData := rfl

/-! ### popEvent -/

@[simp] theorem State.popEvent_args : (s.popEvent).args = s.args := rfl
@[simp] theorem State.popEvent_cfg : (s.popEvent).cfg = s.cfg := rfl
@[simp] theorem State.popEvent_result : (s.popEvent).result = s.result := rfl
@[simp] theorem State.popEvent_err : (s.popEvent).err = s.err := rfl
@[simp] theorem State.popEvent_errs : (s.popEvent).errs = s.errs := rfl
@[simp] theorem State.popEvent_ovr : (s.popEvent).ovr = s.ovr := rfl
@[simp] theorem State.popEvent_latched : (s.popEvent).latched = s.latched := rfl
@[simp] theorem State.popEvent_units : (s.popEvent).units = s.units := rfl
@[simp] theorem State.popEvent_lmem : (s.popEvent).lmem = s.lmem := rfl
@[simp] theorem State.popEvent_lmemSize : (s.popEvent).lmemSize = s.lmemSize := rfl
@[simp] theorem State.popEvent_schedule : (s.popEvent).schedule = s.schedule.tail := rfl
@[simp] theorem State.popEvent_draws : (s.popEvent).draws = s.draws := rfl
@[simp] theorem State.popEvent_readData : (s.popEvent).readData = s.readData := rfl

/-! ### placeCommand -/

@[simp] theorem State.placeCommand_args (w : Word) : (s.placeCommand w).args = s.args := rfl
@[simp] theorem State.placeCommand_cfg (w : Word) : (s.placeCommand w).cfg = s.cfg := rfl
@[simp] theorem State.placeCommand_result (w : Word) : (s.placeCommand w).result = s.result := rfl
@[simp] theorem State.placeCommand_err (w : Word) : (s.placeCommand w).err = .none := rfl
@[simp] theorem State.placeCommand_errs (w : Word) : (s.placeCommand w).errs = s.errs := rfl
@[simp] theorem State.placeCommand_ovr (w : Word) : (s.placeCommand w).ovr = s.ovr := rfl
@[simp] theorem State.placeCommand_latched (w : Word) : (s.placeCommand w).latched = some { word := w, args := s.args, cfg := s.cfg } := rfl
@[simp] theorem State.placeCommand_units (w : Word) : (s.placeCommand w).units = s.units := rfl
@[simp] theorem State.placeCommand_lmem (w : Word) : (s.placeCommand w).lmem = s.lmem := rfl
@[simp] theorem State.placeCommand_lmemSize (w : Word) : (s.placeCommand w).lmemSize = s.lmemSize := rfl
@[simp] theorem State.placeCommand_schedule (w : Word) : (s.placeCommand w).schedule = .engine :: s.schedule := rfl
@[simp] theorem State.placeCommand_draws (w : Word) : (s.placeCommand w).draws = s.draws := rfl
@[simp] theorem State.placeCommand_readData (w : Word) : (s.placeCommand w).readData = s.readData := rfl

/-! ### The operands a command reads -/

theorem State.cmdArgs_of_latched (c : Latched) (h : s.latched = some c) : s.cmdArgs = c.args := by simp [State.cmdArgs, h]

theorem State.cmdCfg_of_latched (c : Latched) (h : s.latched = some c) : s.cmdCfg = c.cfg := by simp [State.cmdCfg, h]

theorem State.cmdArgs_of_idle (h : s.latched = none) : s.cmdArgs = s.args := by simp [State.cmdArgs, h]

theorem State.cmdCfg_of_idle (h : s.latched = none) : s.cmdCfg = s.cfg := by simp [State.cmdCfg, h]

/-- Right after an issue the latched copies are the live registers (40_common.md R133). -/
@[simp] theorem State.cmdArgs_placeCommand (w : Word) : (s.placeCommand w).cmdArgs = s.args := rfl

@[simp] theorem State.cmdCfg_placeCommand (w : Word) : (s.placeCommand w).cmdCfg = s.cfg := rfl

@[simp] theorem State.cmdArgs_popEvent : s.popEvent.cmdArgs = s.cmdArgs := rfl

@[simp] theorem State.cmdCfg_popEvent : s.popEvent.cmdCfg = s.cmdCfg := rfl

/-- BUSY reads 1 exactly when a command is latched (10_state.md R47). -/
theorem State.busy_eq_true_iff : s.busy = true ↔ ∃ c, s.latched = some c := by
  simp [State.busy, Option.isSome_iff_exists]

theorem State.busy_eq_false_iff : s.busy = false ↔ s.latched = none := by
  simp [State.busy]

end Sys2Proof.Machine
end

