-- ==== Sys2Proof/Laws/Memory.lean ====
section
/-!
SUPPORT. The laws of local memory: what a write does to every read, and that every operation keeps the canonical form and the
bound of the addresses.
-/

namespace Sys2Proof.Machine

@[simp] theorem Memory.read_nil (a : Nat) : Memory.read [] a = none := rfl

theorem Memory.read_cons (k : Nat) (v : Byte) (m : Memory) (a : Nat) :
    Memory.read ((k, v) :: m) a = if a = k then some v else Memory.read m a := rfl

/-- A byte that was just written reads as written. -/
@[simp] theorem Memory.read_write_same (m : Memory) (a : Nat) (b : Byte) : (m.write a b).read a = some b := by
  induction m with
  | nil => simp [Memory.write, Memory.read]
  | cons c m ih =>
    obtain ⟨k, v⟩ := c
    simp only [Memory.write]
    split
    · simp [Memory.read]
    · split
      · simp [Memory.read]
      · simp [Memory.read, *]

/-- A write leaves every other byte as it was. -/
theorem Memory.read_write_other (m : Memory) (a a' : Nat) (b : Byte) (h : a' ≠ a) :
    (m.write a b).read a' = m.read a' := by
  induction m with
  | nil => simp [Memory.write, Memory.read, h]
  | cons c m ih =>
    obtain ⟨k, v⟩ := c
    simp only [Memory.write]
    split
    · simp [Memory.read, h]
    · split
      · rename_i hk; subst hk; simp [Memory.read, h]
      · simp [Memory.read, ih]

theorem Memory.mem_write {m : Memory} {a : Nat} {b : Byte} {x : Nat × Byte} (h : x ∈ m.write a b) :
    x = (a, b) ∨ x ∈ m := by
  induction m with
  | nil => simpa [Memory.write] using h
  | cons c m ih =>
    obtain ⟨k, v⟩ := c
    simp only [Memory.write] at h
    split at h
    · simpa using h
    · split at h
      · simp only [List.mem_cons] at h ⊢
        exact h.imp_right .inr
      · simp only [List.mem_cons] at h ⊢
        rcases h with h | h
        · exact .inr (.inl h)
        · exact (ih h).imp_right .inr

/-- A write keeps the canonical form. -/
theorem Memory.write_wf {m : Memory} (h : m.wf) (a : Nat) (b : Byte) : (m.write a b).wf := by
  induction m with
  | nil => simp [Memory.write, Memory.wf]
  | cons c m ih =>
    obtain ⟨k, v⟩ := c
    simp only [Memory.wf, List.pairwise_cons] at h ih ⊢
    simp only [Memory.write]
    split
    · rename_i hlt
      simp only [List.pairwise_cons, List.mem_cons]
      refine ⟨?_, h⟩
      rintro x (rfl | hx)
      · exact hlt
      · exact Nat.lt_trans hlt (h.1 x hx)
    · split
      · rename_i hk
        subst hk
        simpa [List.pairwise_cons] using h
      · rename_i hlt hne
        simp only [List.pairwise_cons]
        refine ⟨fun x hx => ?_, ih h.2⟩
        rcases Memory.mem_write hx with rfl | hx
        · simp only; omega
        · exact h.1 x hx

/-- A byte sequence keeps the canonical form. -/
theorem Memory.writeBytes_wf {m : Memory} (h : m.wf) (a : Nat) (l : List Byte) : (m.writeBytes a l).wf := by
  induction l generalizing m a with
  | nil => exact h
  | cons b t ih => exact ih (Memory.write_wf h a b) (a + 1)

/-- A byte sequence is stored at addresses of its own region only. -/
theorem Memory.mem_writeBytes {m : Memory} {a : Nat} {l : List Byte} {x : Nat × Byte} (h : x ∈ m.writeBytes a l) :
    x ∈ m ∨ (a ≤ x.1 ∧ x.1 < a + l.length) := by
  induction l generalizing m a with
  | nil => exact .inl h
  | cons b t ih =>
    rcases ih h with h | ⟨h1, h2⟩
    · rcases Memory.mem_write h with rfl | h
      · exact .inr ⟨Nat.le_refl _, by simp⟩
      · exact .inl h
    · exact .inr ⟨by omega, by simp only [List.length_cons]; omega⟩

/-- A byte sequence leaves every byte outside its region as it was. -/
theorem Memory.read_writeBytes_outside (m : Memory) (a : Nat) (l : List Byte) (a' : Nat)
    (h : a' < a ∨ a + l.length ≤ a') : (m.writeBytes a l).read a' = m.read a' := by
  induction l generalizing m a with
  | nil => rfl
  | cons b t ih =>
    simp only [List.length_cons] at h
    simp only [Memory.writeBytes]
    rw [ih _ _ (by omega), Memory.read_write_other _ _ _ _ (by omega)]

/-- A byte sequence is read back byte by byte. -/
theorem Memory.read_writeBytes_inside (m : Memory) (a : Nat) (l : List Byte) (j : Nat) (h : j < l.length) :
    (m.writeBytes a l).read (a + j) = some l[j] := by
  induction l generalizing m a j with
  | nil => simp at h
  | cons b t ih =>
    simp only [Memory.writeBytes]
    cases j with
    | zero => rw [Memory.read_writeBytes_outside _ _ _ _ (by omega)]; simp
    | succ j =>
      have h' : j < t.length := by simpa using h
      have := ih (m.write a b) (a + 1) j h'
      rw [show a + (j + 1) = a + 1 + j by omega, this]
      simp

/-- `ReadBytes` answers exactly when every byte of the region has a value, and then it answers those values. -/
theorem Memory.readBytes_eq_some_iff (m : Memory) (a n : Nat) (l : List Byte) :
    m.readBytes a n = some l ↔ l.length = n ∧ ∀ j (h : j < l.length), m.read (a + j) = some l[j] := by
  induction n generalizing a l with
  | zero =>
    simp only [Memory.readBytes, Option.some.injEq]
    constructor
    · rintro rfl; simp
    · rintro ⟨h, -⟩; exact (List.length_eq_zero_iff.mp h).symm
  | succ n ih =>
    simp only [Memory.readBytes]
    constructor
    · intro h
      split at h
      · rename_i b t hb ht
        cases h
        obtain ⟨hlen, hread⟩ := (ih _ _).mp ht
        refine ⟨by simp [hlen], fun j hj => ?_⟩
        cases j with
        | zero => simpa using hb
        | succ j =>
          have := hread j (by simpa using hj)
          rw [show a + (j + 1) = a + 1 + j by omega, this]
          simp
      · cases h
    · rintro ⟨hlen, hread⟩
      cases l with
      | nil => simp at hlen
      | cons b t =>
        have hb : m.read a = some b := hread 0 (by simp)
        have ht : m.readBytes (a + 1) n = some t := by
          refine (ih _ _).mpr ⟨by simpa using hlen, fun j hj => ?_⟩
          have := hread (j + 1) (by simpa using hj)
          rw [show a + 1 + j = a + (j + 1) by omega, this]
          simp
        simp [hb, ht]

theorem Memory.readBytes_length {m : Memory} {a n : Nat} {l : List Byte} (h : m.readBytes a n = some l) :
    l.length = n := ((Memory.readBytes_eq_some_iff m a n l).mp h).1

/-- `ReadBytes` answers nothing exactly when some byte of the region has no value. -/
theorem Memory.readBytes_eq_none_iff (m : Memory) (a n : Nat) :
    m.readBytes a n = none ↔ ∃ j, j < n ∧ m.read (a + j) = none := by
  induction n generalizing a with
  | zero => simp [Memory.readBytes]
  | succ n ih =>
    simp only [Memory.readBytes]
    constructor
    · intro h
      cases hb : m.read a with
      | none => exact ⟨0, by omega, by simpa using hb⟩
      | some b =>
        cases ht : m.readBytes (a + 1) n with
        | none =>
          obtain ⟨j, hj, hr⟩ := (ih (a + 1)).mp ht
          exact ⟨j + 1, by omega, by rw [show a + (j + 1) = a + 1 + j by omega]; exact hr⟩
        | some t => simp [hb, ht] at h
    · rintro ⟨j, hj, hr⟩
      cases j with
      | zero => simp at hr; simp [hr]
      | succ j =>
        have : m.readBytes (a + 1) n = none :=
          (ih (a + 1)).mpr ⟨j, by omega, by rw [show a + 1 + j = a + (j + 1) by omega]; exact hr⟩
        simp [this]

/-- A byte sequence that was just written reads as written. -/
@[simp] theorem Memory.readBytes_writeBytes (m : Memory) (a : Nat) (l : List Byte) :
    (m.writeBytes a l).readBytes a l.length = some l :=
  (Memory.readBytes_eq_some_iff _ _ _ _).mpr ⟨rfl, fun j h => Memory.read_writeBytes_inside m a l j h⟩

/-- Reset memory is in canonical form. -/
theorem State.resetOf_lmem_wf (size : Nat) : (State.resetOf size).lmem.wf := List.Pairwise.nil

theorem State.reset_lmem_wf : State.reset.lmem.wf := List.Pairwise.nil

end Sys2Proof.Machine
end

