-- ==== Sys2Proof/Laws/Command.lean ====
section
/-!
SUPPORT. What the shared order of checks can answer (40_common.md R136): the provers cite these instead of unfolding `command`.
-/

namespace Sys2Proof.Machine

variable {α : Type} {s t : State} {checks : List (Bool × ErrCode)} {ins outs : List Region} {input : Option α}
  {body : α → Except ErrCode State}

/-- A command that completes either reports an error and has no other effect, or passed every check and applied its effects. -/
theorem command_next (h : command s checks ins outs input body = .next t) :
    (∃ code, t = s.fail code) ∨
      ∃ x u, firstFailing checks = none ∧ regionError s.lmemSize ins outs = none ∧ input = some x ∧ body x = .ok u ∧
        t = u.succeed := by
  unfold command at h
  split at h
  · cases h; exact .inl ⟨_, rfl⟩
  · split at h
    · cases h; exact .inl ⟨_, rfl⟩
    · split at h
      · cases h
      · split at h
        · cases h; exact .inl ⟨_, rfl⟩
        · cases h; exact .inr ⟨_, _, ‹_›, ‹_›, rfl, ‹_›, rfl⟩

/-- The only fault of a command is a byte of its input regions that was not written since reset (20_memory.md R90). -/
theorem command_fault {r : Fault} (h : command s checks ins outs input body = .fault r) :
    r = .engineReadUnwritten ∧ firstFailing checks = none ∧ regionError s.lmemSize ins outs = none ∧ input = none := by
  unfold command at h
  split at h
  · cases h
  · split at h
    · cases h
    · split at h
      · cases h; exact ⟨rfl, ‹_›, ‹_›, rfl⟩
      · split at h <;> cases h

/-- No command is refused. -/
theorem command_not_refused {r : Refusal} : command s checks ins outs input body ≠ .refused r := by
  unfold command
  split
  · simp
  · split
    · simp
    · split
      · simp
      · split <;> simp

theorem command_of_check {code : ErrCode} (h : firstFailing checks = some code) :
    command s checks ins outs input body = .next (s.fail code) := by simp [command, h]

theorem command_of_region {code : ErrCode} (hc : firstFailing checks = none)
    (h : regionError s.lmemSize ins outs = some code) :
    command s checks ins outs input body = .next (s.fail code) := by simp [command, hc, h]

theorem command_of_unwritten (hc : firstFailing checks = none) (hr : regionError s.lmemSize ins outs = none) :
    command s checks ins outs (none : Option α) body = .fault .engineReadUnwritten := by simp [command, hc, hr]

theorem command_of_body_error {x : α} {code : ErrCode} (hc : firstFailing checks = none)
    (hr : regionError s.lmemSize ins outs = none) (hb : body x = .error code) :
    command s checks ins outs (some x) body = .next (s.fail code) := by simp [command, hc, hr, hb]

/-- A command whose checks all pass applies its effects. -/
theorem command_of_ok {x : α} (hc : firstFailing checks = none) (hr : regionError s.lmemSize ins outs = none)
    (hb : body x = .ok t) : command s checks ins outs (some x) body = .next t.succeed := by simp [command, hc, hr, hb]

/-- The capacity check either passes and keeps the state, or is ERR_CAPACITY. -/
theorem withCapacity_eq_ok_iff {n cap : Nat} {u : State} : withCapacity n cap t = .ok u ↔ n ≤ cap ∧ u = t := by
  unfold withCapacity
  split
  · simp [*, eq_comm]
  · simp [*]

theorem withCapacity_eq_error_iff {n cap : Nat} {code : ErrCode} :
    withCapacity n cap t = .error code ↔ cap < n ∧ code = .capacity := by
  unfold withCapacity
  split
  · simp; omega
  · simp only [Except.error.injEq, eq_comm, and_iff_right (Nat.lt_of_not_le ‹_›)]

/-- The region checks pass exactly when every region is in range and no input overlaps an output. -/
theorem regionError_eq_none_iff {size : Nat} :
    regionError size ins outs = none ↔
      (∀ r ∈ ins ++ outs, inRange size r = true) ∧ ∀ r ∈ ins, ∀ q ∈ outs, overlap r q = false := by
  unfold regionError
  split
  · rename_i h
    simp only [List.any_eq_true, Bool.not_eq_true'] at h
    obtain ⟨r, hr, hf⟩ := h
    simp only [reduceCtorEq, false_iff, not_and]
    intro hall
    rw [hall r hr] at hf
    cases hf
  · rename_i h
    have hall : ∀ r ∈ ins ++ outs, inRange size r = true := by
      intro r hr
      by_contra hc
      exact h (List.any_eq_true.mpr ⟨r, hr, by simpa using hc⟩)
    split
    · rename_i ho
      simp only [List.any_eq_true] at ho
      obtain ⟨r, hr, q, hq, hrq⟩ := ho
      simp only [reduceCtorEq, false_iff, not_and]
      intro _ hno
      rw [hno r hr q hq] at hrq
      cases hrq
    · rename_i ho
      simp only [true_iff]
      refine ⟨hall, fun r hr q hq => ?_⟩
      by_contra hc
      exact ho (List.any_eq_true.mpr ⟨r, hr, List.any_eq_true.mpr ⟨q, hq, by simpa using hc⟩⟩)

end Sys2Proof.Machine
end

