-- ==== Sys2Proof/Laws/Host.lean ====
section
/-!
SUPPORT. What a host access can answer (20_memory.md R73 to R90): one inversion lemma for a read, one for a write, one for a step.
-/

namespace Sys2Proof.Machine

variable {s t : State}

/-- A host read that answers gives the host data and changes nothing else but the count of free values. -/
theorem hostRead_next {offset : BitVec 24} {width : Nat} (h : hostRead offset width s = .next t) :
    (∃ v, t = s.giveData v) ∨ t = s.giveUnspecified := by
  unfold hostRead at h
  split at h
  · cases h
  · cases h
    unfold readReg
    split
    · exact .inr rfl
    · exact .inl ⟨_, rfl⟩
  · split at h
    · cases h
    · split at h
      · cases h
      · cases h; exact .inl ⟨_, rfl⟩

/-- A host write that answers is a register write, or stores into LMEM inside its bounds while no command is latched. -/
theorem hostWrite_next {offset : BitVec 24} {width : Nat} {value : Word} (h : hostWrite offset width value s = .next t) :
    (∃ r, t = writeReg r value s) ∨
      ∃ a, s.busy = false ∧ a + width ≤ s.lmemSize ∧ t = s.store a (bytesOfValue width value.toNat) := by
  unfold hostWrite at h
  split at h
  · cases h
  · cases h; exact .inl ⟨_, rfl⟩
  · rename_i a ha
    split at h
    · cases h
    · rename_i hb
      cases h
      refine .inr ⟨a, by simpa using hb, ?_, rfl⟩
      unfold target at ha
      split at ha
      · split at ha <;> cases ha
      · split at ha
        · cases ha
        · split at ha
          · rename_i hw
            have := Target.lmem.inj ha
            omega
          · cases ha

/-- A register write issues a command, clears sticky bits, stores into A0 to A3 or the configuration while idle, sets OVR while
busy, or changes nothing. -/
theorem writeReg_cases (r : Reg) (v : Word) (s : State) :
    (s.busy = false ∧ writeReg r v s = s.issue v) ∨ writeReg r v s = s.clearSticky v ∨
      (s.busy = false ∧ ∃ x, writeReg r v s = s.setArgs x) ∨
      (s.busy = false ∧ ∃ x, writeReg r v s = s.setCfg x ∧ (x.frameCfg = s.cfg.frameCfg ∨ x.frameCfg = frameCfgStored v)) ∨
      (s.busy = true ∧ writeReg r v s = s.setOvr) ∨ writeReg r v s = s := by
  cases hb : s.busy <;> cases r <;> simp [writeReg, whenIdle, hb]
  all_goals exact .inr (.inr (.inr (.inl ⟨_, rfl, by simp⟩)))

@[simp] theorem bytesOfValue_length (n v : Nat) : (bytesOfValue n v).length = n := by
  induction n generalizing v with
  | zero => rfl
  | succ n ih => simp [bytesOfValue, ih]

theorem step_of_nil (h : s.schedule = []) : step s = engineTurn s.popEvent := by simp [step, State.nextEvent, h, runEvent]

theorem step_of_cons {e : Event} {rest : List Event} (h : s.schedule = e :: rest) : step s = runEvent e s.popEvent := by
  simp [step, State.nextEvent, h]

/-- What the assembler gives is a well-formed command (30_encoding.md R110). -/
theorem assemble_wellFormed {mnemonic : String} {operands : List Nat} {i : Instr} (h : assemble mnemonic operands = some i) :
    i.wellFormed = true := by
  simp only [assemble, assembleB8, assembleB1] at h
  repeat' split at h
  all_goals cases h
  all_goals simp [Instr.wellFormed, *]

/-- A command has a word exactly when its operands fit their fields. -/
theorem assembledWord_eq_some_iff {i : Instr} {w : Word} : assembledWord i = some w ↔ i.wellFormed = true ∧ encode i = w := by
  simp [assembledWord]

/-- A program is a schedule exactly when its first line and the rest of it are. -/
theorem scheduleOf_cons_eq_some_iff {op : HostOp} {rest : List HostOp} {l : List Event} :
    scheduleOf (op :: rest) = some l ↔ ∃ e r, op.events = some e ∧ scheduleOf rest = some r ∧ l = e ++ r := by
  simp only [scheduleOf]
  split
  · rename_i e r he hr
    simp [he, hr, eq_comm]
  · rename_i h
    simp only [reduceCtorEq, false_iff]
    rintro ⟨e, r, he, hr, -⟩
    exact h e r he hr

end Sys2Proof.Machine
end

