-- ==== Sys2Proof/Laws/Operands.lean ====
section
/-!
SUPPORT. The laws of the operand forms and of the pure functions of the units: the length of what each makes, how each folds over
an appended input, and when a check or a region check passes.
-/

namespace Sys2Proof.Machine

/-! ### Checks and regions -/

@[simp] theorem firstFailing_nil : firstFailing [] = none := rfl

@[simp] theorem firstFailing_cons (bad : Bool) (code : ErrCode) (rest : List (Bool × ErrCode)) :
    firstFailing ((bad, code) :: rest) = if bad then some code else firstFailing rest := rfl

/-- Checks pass exactly when none fails. -/
theorem firstFailing_eq_none_iff (l : List (Bool × ErrCode)) :
    firstFailing l = none ↔ ∀ x ∈ l, x.1 = false := by
  induction l with
  | nil => simp
  | cons x t ih =>
    obtain ⟨bad, code⟩ := x
    cases bad <;> simp [ih]

theorem inRange_eq_true_iff (size : Nat) (r : Region) : inRange size r = true ↔ r.len = 0 ∨ r.start + r.len ≤ size := by
  simp [inRange]

/-- The configuration check of the synthesis commands passes exactly under the four conditions of 46_tone_synth.md R251. -/
theorem firstFailing_synthChecks_eq_none_iff (c : Cfg) :
    firstFailing (synthChecks c) = none ↔
      1 ≤ c.sampleRate.toNat ∧ 1 ≤ c.bitRate.toNat ∧ c.bitRate.toNat ≤ c.sampleRate.toNat ∧
        1 ≤ bitStepOf c.bitRate.toNat c.sampleRate.toNat := by
  rw [firstFailing_eq_none_iff]
  simp [synthChecks, synthConfigOk, and_assoc]

theorem firstFailing_framingChecks_eq_none_iff (c : Cfg) :
    firstFailing (framingChecks c) = none ↔ c.postpend ≤ c.prepend := by
  simp [framingChecks]

/-! ### Lengths -/

@[simp] theorem bitsOfByte_length (b : Byte) : (bitsOfByte b).length = 8 := rfl

@[simp] theorem bitsOfBytes_length (l : List Byte) : (bitsOfBytes l).length = 8 * l.length := by
  induction l with
  | nil => rfl
  | cons b t ih => simp [bitsOfBytes, ih]; omega

theorem Memory.readBits_length {m : Memory} {a n : Nat} {bits : Bits} (h : m.readBits a n = some bits) :
    bits.length = n := by
  simp only [Memory.readBits, Option.map_eq_some_iff] at h
  obtain ⟨l, hl, rfl⟩ := h
  have := Memory.readBytes_length hl
  simp [this, bytesForBits]
  omega

@[simp] theorem packBytes_length (n : Nat) (s : Bits) : (packBytes n s).length = n := by
  induction n generalizing s with
  | zero => rfl
  | succ n ih => simp [packBytes, ih]

@[simp] theorem packBits_length (s : Bits) : (packBits s).length = bytesForBits s.length := packBytes_length _ _

@[simp] theorem packSamples_length (xs : List Half) : (packSamples xs).length = 2 * xs.length := by
  induction xs with
  | nil => rfl
  | cons x t ih => simp [packSamples, ih]; omega

@[simp] theorem nrzi_length (st : Bool) (b : Bits) : (nrzi st b).1.length = b.length := by
  induction b generalizing st with
  | nil => rfl
  | cons x t ih => simp [nrzi, ih]

@[simp] theorem flags_length (n : Nat) : (flags n).length = 8 * n := by
  induction n with
  | zero => rfl
  | succ n ih => simp [flags, flag, ih]; omega

/-- An encoded address of a callsign of at most 6 bytes is 7 bytes (41_address_encoder.md R161). -/
theorem encodeAddress_length {call : List Byte} (ssid : Nat) (last : Bool) (h : call.length ≤ 6) :
    (encodeAddress call ssid last).length = 7 := by
  simp [encodeAddress, paddedCall]
  omega

@[simp] theorem toneRun_length (step : Word) (n : Nat) (ta : Word) : (toneRun step n ta).1.length = n := by
  induction n generalizing ta with
  | zero => rfl
  | succ n ih => simp [toneRun, ih]

@[simp] theorem naiveLoop_length (mark space : Word) (spb : Nat) (bits : Bits) (ta : Word) :
    (naiveLoop mark space spb bits ta).1.length = bits.length * spb := by
  induction bits generalizing ta with
  | nil => simp [naiveLoop]
  | cons b t ih => simp [naiveLoop, ih, Nat.add_mul]; omega

@[simp] theorem exactLoop_length (mark space : Word) (bs n : Nat) (rest : Bits) (step ta : Word) (ba : Nat) :
    (exactLoop mark space bs n rest step ta ba).1.length = n := by
  induction n generalizing rest step ta ba with
  | zero => rfl
  | succ n ih =>
    simp only [exactLoop, List.length_cons]
    split <;> rw [ih]

/-! ### Appended inputs -/

@[simp] theorem crcFold_nil (crc : Half) : crcFold crc [] = crc := rfl

@[simp] theorem crcFold_cons (crc : Half) (b : Byte) (t : List Byte) : crcFold crc (b :: t) = crcFold (crcStep crc b) t := rfl

theorem crcFold_append (crc : Half) (s t : List Byte) : crcFold crc (s ++ t) = crcFold (crcFold crc s) t := by
  induction s generalizing crc with
  | nil => rfl
  | cons b s ih => exact ih (crcStep crc b)

theorem stuff_append (cnt : Nat) (s t : Bits) :
    stuff cnt (s ++ t) = ((stuff cnt s).1 ++ (stuff (stuff cnt s).2 t).1, (stuff (stuff cnt s).2 t).2) := by
  induction s generalizing cnt with
  | nil => rfl
  | cons b s ih => simp [stuff, ih]

/-- A count below 5 stays below 5. -/
theorem stuff_count_lt (cnt : Nat) (s : Bits) (h : cnt < 5) : (stuff cnt s).2 < 5 := by
  induction s generalizing cnt with
  | nil => exact h
  | cons b s ih =>
    refine ih _ ?_
    unfold stuffStep
    split
    · split <;> simp; omega
    · simp

theorem nrzi_append (st : Bool) (s t : Bits) :
    nrzi st (s ++ t) = ((nrzi st s).1 ++ (nrzi (nrzi st s).2 t).1, (nrzi (nrzi st s).2 t).2) := by
  induction s generalizing st with
  | nil => rfl
  | cons b s ih => simp [nrzi, ih]

/-! ### Bounds of the accumulators -/

/-- The bit accumulator stays below 2^16 while the bit step is at most 2^16 (10_state.md R40). -/
theorem exactLoop_bitAcc_lt (mark space : Word) {bs : Nat} (hbs : bs ≤ 2 ^ 16) (n : Nat) (rest : Bits) (step ta : Word)
    {ba : Nat} (hba : ba < 2 ^ 16) : (exactLoop mark space bs n rest step ta ba).2.2 < 2 ^ 16 := by
  induction n generalizing rest step ta ba with
  | zero => exact hba
  | succ n ih =>
    simp only [exactLoop]
    split
    · exact ih _ _ _ (by omega)
    · exact ih _ _ _ (by omega)

end Sys2Proof.Machine
end

