-- ==== Sys2Proof/Laws/PerInstr.lean ====
section
/-!
SUPPORT. Facts about every command as syntax, one lemma per constructor.
-/

namespace Sys2Proof.Laws.TableRow

/-- The "mask" and "match" of each command's row in spec/opcode_table.json. -/
def row : Instr → Word × Word
  | .nop => (0xFFFFFFFF, 0x00000000)
  | .crcInit => (0xFFFFFFFF, 0x01000000)
  | .crcByte _ => (0xFFFFFF00, 0x02000000)
  | .crcFinal => (0xFFFFFFFF, 0x03000000)
  | .crcBuf => (0xFFFFFFFF, 0x04000000)
  | .addrEnc _ _ => (0xFFFFFE00, 0x08000000)
  | .frameBuild _ => (0xFFFFFFF0, 0x09000000)
  | .stuffReset => (0xFFFFFFFF, 0x10000000)
  | .stuffBit _ => (0xFFFFFFFE, 0x11000000)
  | .stuffBuf => (0xFFFFFFFF, 0x12000000)
  | .frameWrap => (0xFFFFFFFF, 0x13000000)
  | .nrziSet _ => (0xFFFFFFFE, 0x14000000)
  | .nrziBit _ => (0xFFFFFFFE, 0x15000000)
  | .nrziBuf => (0xFFFFFFFF, 0x16000000)
  | .lineEncode => (0xFFFFFFFF, 0x17000000)
  | .lutRead _ => (0xFFFFFF00, 0x20000000)
  | .synthPrep => (0xFFFFFFFF, 0x21000000)
  | .synth => (0xFFFFFFFF, 0x22000000)

/-- The word of a command is one its own row of the table calls legal. -/
def Statement (i : Instr) : Prop := encode i &&& (row i).1 = (row i).2

theorem nop : Statement .nop := rfl
theorem crcInit : Statement .crcInit := rfl
theorem crcByte (val : Byte) : Statement (.crcByte val) := by revert val; unfold Statement; decide
theorem crcFinal : Statement .crcFinal := rfl
theorem crcBuf : Statement .crcBuf := rfl

theorem addrEnc (ssid : Nat) (last : Bool) : Statement (.addrEnc ssid last) := by
  have h : ∀ (x : BitVec 8) (b : Bool),
      (0x08#8 ++ BitVec.setWidth 24 (BitVec.ofBool b ++ x)) &&& 0xFFFFFE00#32 = 0x08000000#32 := by decide
  exact h (BitVec.ofNat 8 ssid) last

theorem frameBuild (ndigi : Nat) : Statement (.frameBuild ndigi) := by
  have h : ∀ x : BitVec 4, (0x09#8 ++ BitVec.setWidth 24 x) &&& 0xFFFFFFF0#32 = 0x09000000#32 := by decide
  exact h (BitVec.ofNat 4 ndigi)

theorem stuffReset : Statement .stuffReset := rfl
theorem stuffBit (bit : Bool) : Statement (.stuffBit bit) := by revert bit; unfold Statement; decide
theorem stuffBuf : Statement .stuffBuf := rfl
theorem frameWrap : Statement .frameWrap := rfl
theorem nrziSet (bit : Bool) : Statement (.nrziSet bit) := by revert bit; unfold Statement; decide
theorem nrziBit (bit : Bool) : Statement (.nrziBit bit) := by revert bit; unfold Statement; decide
theorem nrziBuf : Statement .nrziBuf := rfl
theorem lineEncode : Statement .lineEncode := rfl
theorem lutRead (index : Byte) : Statement (.lutRead index) := by revert index; unfold Statement; decide
theorem synthPrep : Statement .synthPrep := rfl
theorem synth : Statement .synth := rfl

end Sys2Proof.Laws.TableRow
end

