-- ==== Sys2Proof/Tests/Slice0.lean ====
section
/-!
SUPPORT. The model's own tests. Expected values are those of 95_test_vectors.md (V and P numbers) or of the rule named. After them, for
every obligation with hypotheses, a theorem `test_witness_…` with a concrete state and operands that meet them.
-/

namespace Sys2Proof.Tests

open Sys2Proof Sys2Proof.Machine

/-! ### Helpers -/

/-- The next state of an outcome, if it is one. -/
def nextOf : Host.Outcome State Fault Refusal → Option State
  | .next s => some s
  | .fault _ | .refused _ => none

/-- The fault of an outcome, if it is one. -/
def faultOf : Host.Outcome State Fault Refusal → Option Fault
  | .fault r => some r
  | .next _ | .refused _ => none

/-- The state after reset with some bytes written from address 0 and the four arguments set. -/
def block (bytes : List Byte) (a0 a1 a2 a3 : Word) : State :=
  { State.reset with lmem := Memory.writeBytes [] 0 bytes, args := ⟨a0, a1, a2, a3⟩ }

/-- The same with FRAME_CFG set. -/
def blockCfg (frameCfg : Word) (bytes : List Byte) (a0 a1 a2 a3 : Word) : State :=
  { block bytes a0 a1 a2 a3 with cfg := { State.reset.cfg with frameCfg := frameCfg } }

/-- One step that runs a command word. -/
def run (w : Word) (s : State) : Option State := nextOf (step (s.placeCommand w))

/-- What a completed command left in RESULT and STATUS. -/
def answer (t : Option State) : Option (Word × Word) := t.map fun u => (u.result, u.status)

/-- The bytes a completed command left in LMEM. -/
def bytesAt (a n : Nat) (t : Option State) : Option (List Byte) := t.bind fun u => u.lmem.readBytes a n

/-- A state with a command latched. -/
def busyState (w : Word) (schedule : List Event) : State :=
  { State.reset with latched := some ⟨w, State.reset.args, State.reset.cfg⟩, schedule := schedule }

/-! ### Well-formedness: each check refuses an ill-formed term (30_encoding.md R103, R104, R110) -/

theorem test_wellFormed_refuses_wide_ssid : (Instr.addrEnc 256 true).wellFormed = false := by decide
theorem test_wellFormed_admits_ssid_255 : (Instr.addrEnc 255 false).wellFormed = true := by decide
theorem test_wellFormed_refuses_wide_ndigi : (Instr.frameBuild 16).wellFormed = false := by decide
theorem test_wellFormed_admits_ndigi_15 : (Instr.frameBuild 15).wellFormed = true := by decide

/-! ### Decoding: words written out field by field from 30_encoding.md R101, R103, R106 -/

theorem test_decode_nop : decode (0x00#8 ++ 0#24) = .ok .nop := by decide
theorem test_decode_crcInit : decode (0x01#8 ++ 0#24) = .ok .crcInit := by decide
theorem test_decode_crcByte : decode (0x02#8 ++ 0#16 ++ 0b10110001#8) = .ok (.crcByte 0xB1) := by decide
theorem test_decode_crcFinal : decode (0x03#8 ++ 0#24) = .ok .crcFinal := by decide
theorem test_decode_crcBuf : decode (0x04#8 ++ 0#24) = .ok .crcBuf := by decide
theorem test_decode_addrEnc : decode (0x08#8 ++ 0#15 ++ 1#1 ++ 0b00000111#8) = .ok (.addrEnc 7 true) := by decide
theorem test_decode_addrEnc_not_last : decode (0x08#8 ++ 0#15 ++ 0#1 ++ 0b00010000#8) = .ok (.addrEnc 16 false) := by decide
theorem test_decode_frameBuild : decode (0x09#8 ++ 0#20 ++ 0b1101#4) = .ok (.frameBuild 13) := by decide
theorem test_decode_stuffReset : decode (0x10#8 ++ 0#24) = .ok .stuffReset := by decide
theorem test_decode_stuffBit : decode (0x11#8 ++ 0#23 ++ 1#1) = .ok (.stuffBit true) := by decide
theorem test_decode_stuffBuf : decode (0x12#8 ++ 0#24) = .ok .stuffBuf := by decide
theorem test_decode_frameWrap : decode (0x13#8 ++ 0#24) = .ok .frameWrap := by decide
theorem test_decode_nrziSet : decode (0x14#8 ++ 0#23 ++ 1#1) = .ok (.nrziSet true) := by decide
theorem test_decode_nrziBit : decode (0x15#8 ++ 0#23 ++ 0#1) = .ok (.nrziBit false) := by decide
theorem test_decode_nrziBuf : decode (0x16#8 ++ 0#24) = .ok .nrziBuf := by decide
theorem test_decode_lineEncode : decode (0x17#8 ++ 0#24) = .ok .lineEncode := by decide
theorem test_decode_lutRead : decode (0x20#8 ++ 0#16 ++ 0b00100110#8) = .ok (.lutRead 38) := by decide
theorem test_decode_synthPrep : decode (0x21#8 ++ 0#24) = .ok .synthPrep := by decide
theorem test_decode_synth : decode (0x22#8 ++ 0#24) = .ok .synth := by decide

/-- V50: illegal opcodes and reserved bits. -/
theorem test_decode_illegal :
    [0x05000000#32, 0x07FFFFFF, 0x0A000000, 0x18000000, 0x23000000, 0xFF000000].all
        (fun w => decide (decode w = .error .opcode)) = true ∧
      [0x00000001#32, 0x01000001, 0x03800000, 0x02000100, 0x09000010, 0x08000200, 0x14000002, 0x20000100, 0x22000001].all
        (fun w => decide (decode w = .error .field)) = true := by decide

theorem test_decodeTableWord : decodeTableWord 32 0x08000107 = some (.addrEnc 7 true) := by decide

/-! ### Commands, one step each -/

/-- V51. -/
theorem test_nop_from_reset : run 0x00000000 State.reset = some State.reset := by decide
/-- V52, step 2. -/
theorem test_nop_keeps_errs :
    answer (run 0x00000000 { State.reset with err := .callLen, errs := true }) = some (0, 0x100) := by decide

/-- V10. -/
theorem test_crcInit :
    (run 0x01000000 { State.reset with units := { State.reset.units with crc := 0x1234 } }).map
      (fun t => (t.result, t.units.crc)) = some (0xFFFF, 0xFFFF) := by decide
/-- V10. -/
theorem test_crcByte : answer (run 0x02000031 State.reset) = some (0x2F8D, 0) := by decide
/-- V11: from a zero register the byte 0x80 leaves the polynomial. -/
theorem test_crcStep_polynomial : crcStep 0x0000 0x80 = 0x8408 ∧ crcStep 0xFFFF 0x41 = 0x5C0A := by decide
/-- V10: CRC_FINAL leaves the register. -/
theorem test_crcFinal :
    (run 0x03000000 { State.reset with units := { State.reset.units with crc := 0x6F91 } }).map
      (fun t => (t.result, t.units.crc)) = some (0x906E, 0x6F91) := by decide
set_option maxRecDepth 10000 in
/-- V10. -/
theorem test_crcBuf :
    (run 0x04000000 (block [0x31, 0x32, 0x33, 0x34, 0x35, 0x36, 0x37, 0x38, 0x39] 0 9 0 0)).map
      (fun t => (t.result, t.units.crc)) = some (0x906E, 0x6F91) := by decide
/-- V12: one byte beyond the end. -/
theorem test_crcBuf_range : answer (run 0x04000000 (block [] 65535 2 0 0)) = some (0, 0x140) := by decide

/-- V15: "n0call", SSID 7, last. -/
theorem test_addrEnc :
    bytesAt 0x10 7 (run 0x08000107 (block [0x6E, 0x30, 0x63, 0x61, 0x6C, 0x6C] 0 6 0x10 0)) =
      some [0x9C, 0x60, 0x86, 0x82, 0x98, 0x98, 0x6F] := by decide
/-- V16: the SSID is checked before the characters. -/
theorem test_addrEnc_ssid_first : answer (run 0x08000010 (block [0x7F] 0 1 0x10 0)) = some (0, 0x190) := by decide

set_option maxRecDepth 10000 in
/-- V20: frame 1. -/
theorem test_frameBuild :
    let t := run 0x09000000
      (block [0x41, 0x50, 0x5A, 0, 0, 0, 0, 0, 0x4E, 0x30, 0x43, 0x41, 0x4C, 0x4C, 0, 0] 0 0x40 0 0x100)
    bytesAt 0x100 18 t =
        some [0x82, 0xA0, 0xB4, 0x40, 0x40, 0x40, 0x60, 0x9C, 0x60, 0x86, 0x82, 0x98, 0x98, 0x61, 0x03, 0xF0, 0xC9, 0x79] ∧
      t.map (fun u => (u.result, u.units.crc)) = some (18, 0x8636) := by decide
/-- V24: descriptor 0 is checked first. -/
theorem test_frameBuild_first_descriptor :
    answer (run 0x09000000
      (block [0x41, 0x50, 0x5A, 0, 0, 0, 0x10, 0, 0x4E, 0x30, 0x7F, 0x41, 0x4C, 0x4C, 0, 0] 0 0x40 0 0x100)) =
      some (0, 0x190) := by decide

/-- 44_bit_transformer.md R210, its example. -/
theorem test_stuffReset :
    (run 0x10000000 { State.reset with units := { State.reset.units with onesCnt := 4 } }).map
      (fun t => (t.result, t.units.onesCnt)) = some (0, 0) := by decide
/-- V30: the fifth 1. -/
theorem test_stuffBit_fifth :
    (run 0x11000001 { State.reset with units := { State.reset.units with onesCnt := 4 } }).map
      (fun t => (t.result, t.units.onesCnt)) = some (0x201, 0) := by decide
/-- V30: a 0. -/
theorem test_stuffBit_zero :
    (run 0x11000000 { State.reset with units := { State.reset.units with onesCnt := 2 } }).map
      (fun t => (t.result, t.units.onesCnt)) = some (0x100, 0) := by decide
/-- V31: sixteen 1s. -/
theorem test_stuffBuf :
    let t := run 0x12000000 (block [0xFF, 0xFF] 0 16 0x20 64)
    bytesAt 0x20 3 t = some [0xDF, 0xF7, 0x05] ∧ t.map (fun u => (u.result, u.units.onesCnt)) = some (19, 1) := by decide
/-- V31: one bit short. -/
theorem test_stuffBuf_capacity : answer (run 0x12000000 (block [0x5F] 0 7 0x20 7)) = some (0, 0x160) := by decide

/-- V32: PREPEND 2, POSTPEND 1. -/
theorem test_frameWrap :
    let t := run 0x13000000 (blockCfg 0x102 [0x01] 0 1 0x40 256)
    bytesAt 0x40 4 t = some [0x00, 0x7E, 0xFD, 0x00] ∧ answer t = some (25, 0) := by decide
/-- V32: the configuration is checked before the regions. -/
theorem test_frameWrap_config_first :
    answer (run 0x13000000 (blockCfg 0x201 [] 65535 100 0x40 256)) = some (0, 0x130) := by decide

/-- V33. -/
theorem test_nrziSet :
    (run 0x14000001 State.reset).map (fun t => (t.result, t.units.lineState)) = some (1, true) := by decide
/-- V33: a 0 toggles. -/
theorem test_nrziBit_toggles :
    (run 0x15000000 { State.reset with units := { State.reset.units with lineState := true } }).map
      (fun t => (t.result, t.units.lineState)) = some (0x100, false) := by decide
/-- V33: a 1 holds. -/
theorem test_nrziBit_holds :
    (run 0x15000001 { State.reset with units := { State.reset.units with lineState := true } }).map
      (fun t => (t.result, t.units.lineState)) = some (0x101, true) := by decide
/-- V34. -/
theorem test_nrziBuf :
    let t := run 0x16000000 (block [0x0C] 0 5 0x20 64)
    bytesAt 0x20 1 t = some [0x11] ∧ t.map (fun u => (u.result, u.units.lineState)) = some (5, true) := by decide
/-- V34: in place. -/
theorem test_nrziBuf_overlap : answer (run 0x16000000 (block [0x0C] 0 5 0 8)) = some (0, 0x150) := by decide

set_option maxRecDepth 10000 in
/-- V21, case (1, 1, 0). -/
theorem test_lineEncode :
    let t := run 0x17000000
      (blockCfg 0x101
        [0x82, 0xA0, 0xB4, 0x40, 0x40, 0x40, 0x60, 0x9C, 0x60, 0x86, 0x82, 0x98, 0x98, 0x61, 0x03, 0xF0, 0xC9, 0x79]
        0 18 0x200 800)
    bytesAt 0x200 21 t =
        some [0x7F, 0x2B, 0x35, 0x39, 0x95, 0x6A, 0x95, 0x8A, 0xDE, 0x8A, 0x28, 0x2B, 0xDD, 0x22, 0x8A, 0xAB, 0xFA, 0x25,
          0x04, 0x01, 0x01] ∧
      t.map (fun u => (u.result, u.units.onesCnt, u.units.lineState)) = some (161, 0, true) := by decide
/-- 90_conflicts.md C4: an empty frame gives no output bits. -/
theorem test_lineEncode_empty :
    (run 0x17000000 (blockCfg 0x10101 [] 0 0 0x200 800)).map (fun t => (t.result, t.lmem, t.units.lineState)) =
      some (0, [], true) := by decide

/-- V37. -/
theorem test_lutRead : answer (run 0x20000026 State.reset) = some (0x000066CF, 0) := by decide
/-- V37: a negative entry is sign-extended. -/
theorem test_lutRead_negative : answer (run 0x200000C1 State.reset) = some (0xFFFF800B, 0) := by decide

/-- V39: the reset configuration. -/
theorem test_synthPrep :
    (run 0x21000000 State.reset).map (fun t => (t.result, t.units.markStep, t.units.spaceStep, t.units.bitStep, t.units.spb)) =
      some (6, 0x266666, 0x466666, 9830, 6) := by decide
/-- V39: the bit step is 0. -/
theorem test_synthPrep_config :
    answer (run 0x21000000 { State.reset with cfg := { State.reset.cfg with sampleRate := 65537, bitRate := 1 } }) =
      some (0, 0x130) := by decide
/-- V40. -/
theorem test_synth_exact :
    let t := run 0x22000000 (block [0x01] 0 2 0x10 16)
    bytesAt 0x10 26 t =
        some [0x00, 0x00, 0xCF, 0x66, 0x7C, 0x7A, 0x26, 0x28, 0x4C, 0xB6, 0x0B, 0x80, 0xC1, 0xB3, 0x28, 0x25, 0x54, 0x72,
          0x4C, 0xB6, 0x4D, 0xA3, 0xCF, 0x66, 0x56, 0x3C] ∧
      t.map (fun u => (u.result, u.units.toneAcc, u.units.bitAcc, u.lmem.read 0x2A)) =
        some (13, 0x02B3332E, 62254, none) := by decide
/-- V43, P5. -/
theorem test_synth_naive :
    let t := run 0x22000000 (blockCfg 0x2034B [0x01] 0 2 0x10 16)
    bytesAt 0x10 24 t =
        some [0x00, 0x00, 0xCF, 0x66, 0x7C, 0x7A, 0x26, 0x28, 0x4C, 0xB6, 0x0B, 0x80, 0xC1, 0xB3, 0xE2, 0x70, 0x26, 0x28,
          0xE3, 0x81, 0xDC, 0xFC, 0x9C, 0x7E] ∧
      t.map (fun u => (u.result, u.units.toneAcc, u.units.bitAcc)) = some (12, 0x028CCCC8, 0) := by decide

/-! ### The host port -/

/-- V53, steps 2 and 4: a write while BUSY sets OVR and nothing else. -/
theorem test_write_while_busy :
    (nextOf (step (busyState 0x22000000 [.write 0x10 4 0x55]))).map
      (fun t => (t.args.a0, t.status, t.latched.map Latched.word)) = some (0, 0x201, some 0x22000000) := by decide
/-- V52, step 3; step 4 changes nothing. -/
theorem test_status_write :
    let s (v : Word) : State := { State.reset with errs := true, ovr := true, schedule := [.write 0x04 4 v] }
    (nextOf (step (s 0x100))).map State.status = some 0x200 ∧ (nextOf (step (s 0x0F1))).map State.status = some 0x300 := by
  decide
/-- 10_state.md R33: FRAME_CFG keeps bits 17:0. -/
theorem test_frameCfg_write :
    (nextOf (step { State.reset with schedule := [.write 0x30 4 0xFFFFFFFF] })).map (fun t => t.regValue .frameCfg) =
      some 0x3FFFF := by decide
/-- 20_memory.md R75: the window is little-endian. -/
theorem test_window_little_endian :
    (nextOf (step { State.reset with schedule := [.write 0x800002 2 0x12345678] })).map State.lmem =
      some [(2, 0x78), (3, 0x56)] := by decide

/-- V54: a byte not written since reset. -/
theorem test_fault_host_unwritten :
    faultOf (step { State.reset with schedule := [.read 0x800000 1] }) = some .hostReadUnwritten := by decide
/-- V54: LMEM while BUSY. -/
theorem test_fault_lmem_while_busy :
    faultOf (step (busyState 0 [.read 0x800010 1])) = some .hostLmemWhileBusy := by decide
/-- V54: a misaligned register access. -/
theorem test_fault_misaligned : faultOf (step { State.reset with schedule := [.read 0x02 4] }) = some .busError := by decide
/-- V54: the first byte beyond LMEM. -/
theorem test_fault_beyond_lmem :
    faultOf (step { State.reset with schedule := [.read 0x810000 1] }) = some .busError := by decide
/-- V12, V54: CRC_BUF over an unwritten byte. -/
theorem test_fault_engine_unwritten :
    faultOf (step ((block [] 0 1 0 0).placeCommand 0x04000000)) = some .engineReadUnwritten := by decide

/-- 30_encoding.md R112, P1: FCS16 as host accesses. -/
theorem test_fcs16_schedule :
    scheduleOf (fcs16 0 9) =
      some [.write 0x10 4 0, .write 0x14 4 9, .write 0x00 4 0x01000000, .engine, .read 0x04 4, .write 0x00 4 0x04000000,
        .engine, .read 0x04 4] := by decide
/-- 30_encoding.md R110, R112: AX25_FRAME with 15 digipeaters is a program; with 16 it is an assembly error. -/
theorem test_ax25Frame_operand_width :
    (scheduleOf (ax25Frame 0 0 0 0 15)).map List.length = some 7 ∧ scheduleOf (ax25Frame 0 0 0 0 16) = none := by decide
/-- 30_encoding.md R110: the examples of its table. -/
theorem test_assemble_words :
    [("CRC_INIT", [], 0x01000000#32), ("CRC_BYTE", [0x31], 0x02000031), ("NRZI_BIT", [0], 0x15000000),
      ("ADDR_ENC", [7, 1], 0x08000107), ("FRAME_BUILD", [1], 0x09000001)].all
        (fun l => decide ((assemble l.1 l.2.1).bind assembledWord = some l.2.2)) = true := by decide
/-- 30_encoding.md R110: every operand one beyond its field's width. -/
theorem test_assemble_errors :
    [("CRC_BYTE", [256]), ("LUT_READ", [256]), ("STUFF_BIT", [2]), ("NRZI_SET", [2]), ("NRZI_BIT", [2]), ("ADDR_ENC", [256, 0]),
      ("ADDR_ENC", [0, 2]), ("FRAME_BUILD", [16]), ("NOP", [0])].all (fun l => decide (assemble l.1 l.2 = none)) = true := by
  decide
/-- 10_state.md R23: the register at each register's offset is that register. -/
theorem test_offsetOf :
    [Reg.cmd, .status, .result, .id, .a0, .a1, .a2, .a3, .sampleRate, .bitRate, .markFreq, .spaceFreq, .frameCfg, .reserved,
      .crc, .onesCnt, .lineState, .toneAcc, .bitAcc, .markStep, .spaceStep, .bitStep, .spb, .lmemSize].all
        (fun r => decide (regAt (offsetOf r).toNat = r)) = true := by decide

/-- Log 23: no LMEM address wraps to a register. -/
theorem test_windowOffset :
    windowOffset 0 = 0x800000 ∧ windowOffset 0x7FFFFF = 0xFFFFFF ∧
      (HostOp.wrw 0x800000 0x22000000).events.map (fun e => faultOf (step { State.reset with schedule := e })) =
        some (some .busError) := by decide

/-- From reset with nothing scheduled a step changes nothing (log 9, log 10). -/
theorem test_idle_step : nextOf (step State.reset) = some State.reset := by decide

/-! ### Witnesses: a state and operands that meet the hypotheses of each obligation, at boundary values where it has ranges -/

/-- An outcome whose next state passes a test is a next state that passes it. -/
theorem next_of_any {o : Host.Outcome State Fault Refusal} {p : State → Bool} (h : (nextOf o).any p = true) :
    ∃ t, o = .next t ∧ p t = true := by
  cases o with
  | next t => exact ⟨t, rfl, h⟩
  | fault r => cases h
  | refused r => cases h

/-- The bytes of V20's descriptor table. -/
def table20 : List Byte := [0x41, 0x50, 0x5A, 0, 0, 0, 0, 0, 0x4E, 0x30, 0x43, 0x41, 0x4C, 0x4C, 0, 0]

theorem test_witness_ResetAbandonsLatchedCommand :
    (busyState 0x22000000 [.reset, .engine]).schedule = .reset :: [.engine] := rfl

theorem test_witness_ResetMeetsInvariant :
    (Config.lmemSizeMin ≤ 4096 ∧ 4096 ≤ Config.lmemSizeMax) ∧ Config.lmemSizeMin ≤ 8388608 ∧ 8388608 ≤ Config.lmemSizeMax := by
  decide

theorem test_witness_StepKeepsInvariant :
    ((block [0x01] 0 2 0x10 16).placeCommand 0x22000000).Inv ∧
      ∃ t, step ((block [0x01] 0 2 0x10 16).placeCommand 0x22000000) = .next t ∧ (t.lmem.length == 27) = true :=
  ⟨⟨by decide, by decide, by decide, by decide, by decide, by decide, by decide, by decide,
    fun c h => by cases h; exact ⟨rfl, rfl⟩, fun _ => rfl⟩, next_of_any (by decide)⟩

theorem test_witness_LmemSizeIsConstant :
    (∃ t, step { State.resetOf 8388608 with schedule := [.reset] } = .next t ∧ (t.lmemSize == 8388608) = true) ∧
      (State.resetOf 8388608).lmemSize ≤ Config.lmemSizeMax ∧
      { State.reset with schedule := [.read 0x64 4] }.schedule = .read 0x64 4 :: [] ∧
      { State.reset with schedule := [.write 0x64 4 7] }.schedule = .write 0x64 4 7 :: [] :=
  ⟨next_of_any (by decide), by decide, rfl, rfl⟩

theorem test_witness_DecodeEncodeRoundTrip :
    (Instr.addrEnc 255 true).wellFormed = true ∧ (Instr.frameBuild 15).wellFormed = true ∧
      decode 0x080001FF = .ok (.addrEnc 255 true) ∧ decode 0x0900000F = .ok (.frameBuild 15) := by decide

/-- Every bound of the unassigned ranges. -/
theorem test_witness_UnassignedOpcodeFails :
    [0x05000000#32, 0x07FFFFFF, 0x0A000000, 0x0F000000, 0x18000000, 0x1F000000, 0x23000000, 0xFF000000].all (fun w =>
      let s := busyState w []
      let opc := (w.extractLsb' 24 8).toNat
      decide (s.nextEvent = .engine) && decide (s.latched = some ⟨w, s.args, s.cfg⟩) &&
        decide (0x05 ≤ opc ∧ opc ≤ 0x07 ∨ 0x0A ≤ opc ∧ opc ≤ 0x0F ∨ 0x18 ≤ opc ∧ opc ≤ 0x1F ∨ 0x23 ≤ opc)) = true := by
  decide

theorem test_witness_ReservedBitFails :
    [0x00000001#32, 0x03800000, 0x02000100, 0x11000002, 0x08000200, 0x09000010, 0x22800000].all (fun w =>
      let s := busyState w []
      decide (s.nextEvent = .engine) && decide (s.latched = some ⟨w, s.args, s.cfg⟩) &&
        decide (w.extractLsb' 24 8 ∈ assignedOpcodes) && decide (w &&& reservedBits (w.extractLsb' 24 8) ≠ 0)) = true := by
  decide

theorem test_witness_WordsOfTheOpcodeMap :
    (Instr.frameBuild 15).wellFormed = true ∧ (Instr.frameBuild 16).wellFormed = false ∧
      (Instr.addrEnc 255 true).wellFormed = true ∧ (Instr.addrEnc 256 true).wellFormed = false := by decide

theorem test_witness_StepRunsDecodedCommand :
    (State.reset.placeCommand 0x08000107).nextEvent = .engine ∧
      (State.reset.placeCommand 0x08000107).latched = some ⟨0x08000107, State.reset.args, State.reset.cfg⟩ ∧
      decode 0x08000107 = .ok (.addrEnc 7 true) ∧ (Instr.addrEnc 7 true).wellFormed = true := by decide

theorem test_witness_CmdWriteIssues :
    { State.reset with schedule := [.write 0x00 4 0x22000000] }.schedule = .write 0x00 4 0x22000000 :: [] ∧
      { State.reset with schedule := [.write 0x00 4 0x22000000] }.busy = false := by decide

theorem test_witness_WritesWhileBusyAreIgnored :
    [0x00#24, 0x10, 0x14, 0x18, 0x1C, 0x20, 0x24, 0x28, 0x2C, 0x30].all (fun offset =>
      decide ((busyState 0 [.write offset 4 9]).schedule = .write offset 4 9 :: []) &&
        (busyState 0 [.write offset 4 9]).busy) = true := by decide

theorem test_witness_StatusRegister :
    (busyState 0 [.write 0x04 4 0x300]).schedule = .write 0x04 4 0x300 :: [] := rfl

theorem test_witness_IdleWritesStore :
    [0x10#24, 0x14, 0x18, 0x1C, 0x20, 0x24, 0x28, 0x2C, 0x30].all (fun offset =>
      let s : State := { State.reset with schedule := [.write offset 4 0xFFFFFFFF] }
      decide (s.schedule = .write offset 4 0xFFFFFFFF :: []) && !s.busy) = true := by decide

theorem test_witness_ReservedOffsetsReadZero :
    [0x34#24, 0x3C, 0x68, 0xFC].all (fun offset =>
      let o := offset.toNat
      decide ((0x34 ≤ o ∧ o ≤ 0x3C ∨ 0x68 ≤ o ∧ o ≤ 0xFC) ∧ o % 4 = 0) &&
        decide ({ State.reset with schedule := [.read offset 4] }.schedule = .read offset 4 :: []) &&
        decide ({ State.reset with schedule := [.write offset 4 1] }.schedule = .write offset 4 1 :: [])) = true := by decide

theorem test_witness_ReadOnlyRegistersIgnoreWrites :
    [0x08#24, 0x0C, 0x40, 0x44, 0x48, 0x4C, 0x50, 0x54, 0x58, 0x5C, 0x60, 0x64].all (fun offset =>
      decide ((busyState 0 [.write offset 4 9]).schedule = .write offset 4 9 :: [])) = true := by decide

/-- A read that is unspecified, and the same read while idle; the first and the last register offset; an offset of the map read while
idle and a reserved one, each with the data it answers. -/
theorem test_witness_RegisterReads :
    ((busyState 0 [.read 0x08 4]).schedule = .read 0x08 4 :: [] ∧ (busyState 0 [.read 0x08 4]).busy = true ∧
        (0x08#24).toNat < 0x100 ∧ (0x08#24).toNat % 4 = 0 ∧
        0x08#24 ∈ [0x08#24, 0x40, 0x44, 0x48, 0x4C, 0x50, 0x54, 0x58, 0x5C, 0x60]) ∧
      { State.reset with schedule := [.read 0x08 4] }.busy = false ∧
      ((0x00#24).toNat < 0x100 ∧ (0x00#24).toNat % 4 = 0) ∧ (0xFC#24).toNat < 0x100 ∧ (0xFC#24).toNat % 4 = 0 ∧
      (nextOf (step { State.reset with schedule := [.read 0x20 4] })).map State.readData = some (some 8000) ∧
      (nextOf (step { State.reset with schedule := [.read 0x34 4] })).map State.readData = some (some 0) := by decide

/-- Bad and allowed accesses at the bounds of the map. -/
theorem test_witness_BusErrorsExactly :
    let read (offset : BitVec 24) (width : Nat) : State := { State.reset with schedule := [.read offset width] }
    let write (offset : BitVec 24) (width : Nat) : State := { State.reset with schedule := [.write offset width 5] }
    faultOf (step (read 0xFC 4)) = none ∧ faultOf (step (read 0xFC 2)) = some .busError ∧
      faultOf (step (read 0x100 4)) = some .busError ∧ faultOf (step (read 0x7FFFFC 4)) = some .busError ∧
      faultOf (step (write 0x800000 4)) = none ∧ faultOf (step (write 0x80FFFF 1)) = none ∧
      faultOf (step (write 0x810000 1)) = some .busError ∧ faultOf (step (write 0x80FFFE 4)) = some .busError := by decide

/-- The last access of each width. -/
theorem test_witness_LmemWindowWriteReadBack :
    [(0x80FFFF#24, 1), (0x80FFFE, 2), (0x80FFFC, 4)].all (fun p =>
      let s : State := { State.reset with schedule := [.write p.1 p.2 0x12345678, .read p.1 p.2] }
      decide (s.schedule = .write p.1 p.2 0x12345678 :: .read p.1 p.2 :: []) && !s.busy &&
        decide (0x800000 ≤ p.1.toNat ∧ (p.2 = 1 ∨ p.2 = 2 ∨ p.2 = 4) ∧ (p.1.toNat - 0x800000) % p.2 = 0 ∧
          p.1.toNat - 0x800000 + p.2 ≤ s.lmemSize)) = true := by decide

theorem test_witness_LmemAccessFaults :
    (0x800000 ≤ (0x80FFFC#24).toNat ∧ ((0x80FFFC#24).toNat - 0x800000) % 4 = 0 ∧
        (0x80FFFC#24).toNat - 0x800000 + 4 ≤ State.reset.lmemSize) ∧
      (busyState 0 [.read 0x80FFFC 4]).busy = true ∧ (busyState 0 [.write 0x80FFFC 4 1]).busy = true ∧
      faultOf (step { State.reset with schedule := [.read 0x80FFFC 4] }) = some .hostReadUnwritten ∧
      faultOf (step { block [1, 2, 3, 4] 0 0 0 0 with schedule := [.read 0x800000 4] }) = none := by decide

theorem test_witness_HostNeverWritesUnitState :
    (∃ t, step { State.reset with schedule := [.read 0x40 4] } = .next t ∧ (t.readData == some 0xFFFF) = true) ∧
      ∃ t, step { State.reset with schedule := [.write 0x40 4 7] } = .next t ∧ (t.units.crc == 0xFFFF) = true :=
  ⟨next_of_any (by decide), next_of_any (by decide)⟩

/-- One input for each clause: a configuration error, a range error, an overlap, an unwritten input. -/
theorem test_witness_ChecksRunInOrder :
    (let s := blockCfg 0x201 [] 0 1 0x40 256
     firstFailing (checksOf .frameWrap s.cmdArgs s.cmdCfg) = some .config) ∧
    (let s := block [] 65535 2 0 0
     firstFailing (checksOf .crcBuf s.cmdArgs s.cmdCfg) = none ∧
       ∃ r ∈ inputsOf .crcBuf s.cmdArgs ++ outputsOf .crcBuf s.cmdArgs, inRange s.lmemSize r = false) ∧
    (let s := block [] 0 8 0 8
     (∀ r ∈ inputsOf .nrziBuf s.cmdArgs ++ outputsOf .nrziBuf s.cmdArgs, inRange s.lmemSize r = true) ∧
       ∃ r ∈ inputsOf .nrziBuf s.cmdArgs, ∃ q ∈ outputsOf .nrziBuf s.cmdArgs, overlap r q = true) ∧
    (let s := block [] 0 8 1 8
     (∀ r ∈ inputsOf .nrziBuf s.cmdArgs ++ outputsOf .nrziBuf s.cmdArgs, inRange s.lmemSize r = true) ∧
       (∀ r ∈ inputsOf .nrziBuf s.cmdArgs, ∀ q ∈ outputsOf .nrziBuf s.cmdArgs, overlap r q = false) ∧
       ∃ r ∈ inputsOf .nrziBuf s.cmdArgs, ∃ j, j < r.len ∧ s.lmem.read (r.start + j) = none) := by
  refine ⟨by decide, ⟨by decide, by decide⟩, ⟨by decide, by decide⟩, ⟨by decide, by decide, ?_⟩⟩
  exact ⟨bitRegion 0 8, by decide, 0, by decide, by decide⟩

theorem test_witness_NoEffectOnError :
    ∃ t, complete 0x08000000 (block [] 0 7 0x10 0) = .next t ∧ decide (t.err ≠ .none) = true := next_of_any (by decide)

theorem test_witness_CompletionFrame :
    ∃ t, complete 0x04000000 (block [0x31] 0 1 0 0) = .next t ∧ decide (t.err = .none) = true := next_of_any (by decide)

theorem test_witness_CommandFaultsOnlyOnUnwrittenInput : exec .crcBuf (block [] 0 1 0 0) = .fault .engineReadUnwritten := rfl

/-- CRC_FINAL writes no unit register; its `exec` answers. -/
theorem test_witness_UnitRegisterWriters :
    (∃ t, exec .crcFinal State.reset = .next t ∧ (t.units.crc == 0xFFFF) = true) ∧
      writesCrc .crcFinal = false ∧ writesOnesCnt .crcFinal = false ∧ writesLineState .crcFinal = false ∧
      writesAccs .crcFinal = false ∧ writesSteps .crcFinal = false := ⟨next_of_any (by decide), by decide⟩

/-- SYNTH stores 26 bytes from 0x10; the bytes on both sides are outside. -/
theorem test_witness_MemoryFrame :
    (∃ t, exec .synth (block [0x01] 0 2 0x10 16) = .next t ∧ (t.lmem.length == 27) = true) ∧
      storeRegionOf .synth (block [0x01] 0 2 0x10 16) = ⟨0x10, 26⟩ := ⟨next_of_any (by decide), by decide⟩

theorem test_witness_ReadBitsLayout : Memory.readBits [(5, 0xFF), (6, 0x01)] 5 9 = some (List.replicate 9 true) := by decide

theorem test_witness_WriteBitsLayout : 1 < ([true, false, true, true, true, true, true, true, true].length + 7) / 8 ∧ 7 < 8 := by decide

theorem test_witness_SampleLayout : [0x0001#16, 0xFFFF#16][1]? = some 0xFFFF#16 := by decide

/-- An empty buffer beyond LMEM, and a buffer that ends at its end. -/
theorem test_witness_CrcBufCompletes :
    (let s := block [] 70000 0 0 0
     (s.cmdArgs.n1 = 0 ∨ s.cmdArgs.n0 + s.cmdArgs.n1 ≤ s.lmemSize) ∧ s.lmem.readBytes s.cmdArgs.n0 s.cmdArgs.n1 = some []) ∧
    (let s : State := { block [] 65535 1 0 0 with lmem := [(65535, 0x41)] }
     (s.cmdArgs.n1 = 0 ∨ s.cmdArgs.n0 + s.cmdArgs.n1 ≤ s.lmemSize) ∧
       s.lmem.readBytes s.cmdArgs.n0 s.cmdArgs.n1 = some [0x41]) := by decide

theorem test_witness_CrcBufSplits :
    0 + 2 + 1 < 2 ^ 32 ∧
      ∃ t, exec .crcBuf ((block [0x31, 0x32, 0x33] 0 (2 + 1) 0 0).issue 0x04000000) = .next t ∧
        decide (t.err = .none) = true :=
  ⟨by decide, next_of_any (by decide)⟩

/-- The longest callsign with the largest SSID; the empty callsign. -/
theorem test_witness_AddrEncCompletes :
    (let s := block [0x6E, 0x30, 0x63, 0x20, 0x6C, 0x7E] 0 6 65529 0
     s.cmdArgs.n1 ≤ 6 ∧ 15 ≤ 15 ∧ (s.cmdArgs.n1 = 0 ∨ s.cmdArgs.n0 + s.cmdArgs.n1 ≤ s.lmemSize) ∧
       s.cmdArgs.n2 + 7 ≤ s.lmemSize ∧ overlap (byteRegion s.cmdArgs.n0 s.cmdArgs.n1) (byteRegion s.cmdArgs.n2 7) = false ∧
       s.lmem.readBytes s.cmdArgs.n0 s.cmdArgs.n1 = some [0x6E, 0x30, 0x63, 0x20, 0x6C, 0x7E] ∧
       ∀ c ∈ [0x6E#8, 0x30, 0x63, 0x20, 0x6C, 0x7E], 0x20 ≤ c.toNat ∧ c.toNat ≤ 0x7E) ∧
    (let s := block [] 70000 0 0x10 0
     (s.cmdArgs.n1 = 0 ∨ s.cmdArgs.n0 + s.cmdArgs.n1 ≤ s.lmemSize) ∧
       s.lmem.readBytes s.cmdArgs.n0 s.cmdArgs.n1 = some []) := by decide

/-- ADDR_ENC with 0x1F and 0x7F; FRAME_BUILD whose second descriptor is the first that is not legal, by a character and by its
SSID. -/
theorem test_witness_ContentErrors :
    (let s := block [0x1F, 0x7F] 0 2 0x10 0
     s.cmdArgs.n1 ≤ 6 ∧ s.cmdArgs.n2 + 7 ≤ s.lmemSize ∧
       overlap (byteRegion s.cmdArgs.n0 s.cmdArgs.n1) (byteRegion s.cmdArgs.n2 7) = false ∧
       s.lmem.readBytes s.cmdArgs.n0 s.cmdArgs.n1 = some [0x1F, 0x7F] ∧ ∃ c ∈ [0x1F#8, 0x7F], c.toNat < 0x20 ∨ 0x7E < c.toNat) ∧
    [[0x41#8, 0x50, 0x5A, 0, 0, 0, 15, 0, 0x4E, 0x7F, 0x43, 0x41, 0x4C, 0x4C, 16, 0],
      [0x41, 0x50, 0x5A, 0, 0, 0, 15, 0, 0x4E, 0x30, 0x43, 0x41, 0x4C, 0x4C, 16, 0]].all (fun table =>
      let s := block table 0 0x40 0 0x100
      let a := s.cmdArgs
      decide (a.n0 + 8 * 2 ≤ s.lmemSize ∧ a.n2 = 0 ∧ a.n3 + 18 ≤ s.lmemSize ∧
        overlap (byteRegion a.n0 16) (byteRegion a.n3 18) = false ∧ overlap (byteRegion a.n1 a.n2) (byteRegion a.n3 18) = false ∧
        s.lmem.readBytes a.n0 16 = some table ∧ s.lmem.readBytes a.n1 a.n2 = some []) &&
        ((descriptors 2 table)[0]?.all fun d => d.call.all printable && decide (d.ssid.toNat ≤ 15)) &&
        ((descriptors 2 table)[1]?.any fun d =>
          d.call.any (fun c => !printable c) || (d.call.all printable && decide (15 < d.ssid.toNat)))) = true := by decide

theorem test_witness_OverlongCallsignRejected : 6 < (block [] 0 7 0x10 0).cmdArgs.n1 := by decide

/-- Six characters at the bounds of the ranges; a callsign with five missing. -/
theorem test_witness_EncodedAddressLaws :
    [0x61#8, 0x7A, 0x20, 0x7E, 0x41, 0x5A].length ≤ 6 ∧ (∀ c ∈ [0x61#8, 0x7A, 0x20, 0x7E, 0x41, 0x5A], printable c = true) ∧
      15 ≤ 15 ∧ ([0x61#8, 0x7A, 0x20, 0x7E, 0x41, 0x5A][5]? = some 0x5A#8) ∧ ([0x61#8].length ≤ 1 ∧ 1 < 6) ∧
      encodeAddress [0x61] 3 false = encodeAddress [0x41] 3 false := by decide

theorem test_witness_FrameBuildCompletes :
    let s := block table20 0 0x40 0 0x100
    let a := s.cmdArgs
    a.n0 + 8 * (2 + 0) ≤ s.lmemSize ∧ (a.n2 = 0 ∨ a.n1 + a.n2 ≤ s.lmemSize) ∧ a.n3 + (7 * (2 + 0) + 4 + a.n2) ≤ s.lmemSize ∧
      overlap (byteRegion a.n0 (8 * (2 + 0))) (byteRegion a.n3 (7 * (2 + 0) + 4 + a.n2)) = false ∧
      overlap (byteRegion a.n1 a.n2) (byteRegion a.n3 (7 * (2 + 0) + 4 + a.n2)) = false ∧
      s.lmem.readBytes a.n0 (8 * (2 + 0)) = some table20 ∧ s.lmem.readBytes a.n1 a.n2 = some [] ∧
      ∀ d ∈ descriptors (2 + 0) table20, (∀ c ∈ d.call, printable c = true) ∧ d.ssid.toNat ≤ 15 := by decide

/-- The first descriptor of V20 has a callsign of three bytes, the second one of six. -/
theorem test_witness_FrameLaws :
    table20.length = 8 * (2 + 0) ∧ 1 < 2 + 0 ∧
      (descriptors 2 table20).map (fun d => d.call.length) = [3, 6] := by decide

theorem test_witness_StuffBitCommandsComplete :
    let s (n : BitVec 3) : State := { State.reset with units := { State.reset.units with onesCnt := n } }
    (s 0).units.onesCnt.toNat < 4 ∧ (s 3).units.onesCnt.toNat < 4 ∧ (s 4).units.onesCnt.toNat = 4 := by decide

/-- A capacity that is just enough: 19 bits for sixteen 1s. -/
theorem test_witness_StuffBufCompletes :
    let s := block [0xFF, 0xFF] 0 16 0x20 19
    let a := s.cmdArgs
    inRange s.lmemSize (bitRegion a.n0 a.n1) = true ∧ inRange s.lmemSize (bitRegion a.n2 a.n3) = true ∧
      overlap (bitRegion a.n0 a.n1) (bitRegion a.n2 a.n3) = false ∧
      s.lmem.readBits a.n0 a.n1 = some (List.replicate 16 true) ∧
      (stuff s.units.onesCnt.toNat (List.replicate 16 true)).1.length ≤ a.n3 := by decide

theorem test_witness_StuffingLaws :
    (¬ List.replicate 5 true <:+: [true, true, true, true, false, true]) ∧ [true, false].getLast? = some false := by decide

theorem test_witness_FrameWrapCompletes :
    let s := blockCfg 0x101 [0x01] 0 1 0x40 17
    let a := s.cmdArgs
    s.cmdCfg.postpend ≤ s.cmdCfg.prepend ∧
      inRange s.lmemSize (bitRegion a.n0 a.n1) = true ∧ inRange s.lmemSize (bitRegion a.n2 a.n3) = true ∧
      overlap (bitRegion a.n0 a.n1) (bitRegion a.n2 a.n3) = false ∧ s.lmem.readBits a.n0 a.n1 = some [true] ∧
      (wrap [true] s.cmdCfg.prepend s.cmdCfg.postpend).length ≤ a.n3 := by decide

theorem test_witness_FramingLayout :
    3 ≤ 75 ∧ [true] ≠ [] ∧ 575 < 8 * (75 - 3) ∧ 23 < 8 * 3 ∧ 0 < [true].length ∧ 1 ≤ 1 := by decide

theorem test_witness_NrziBufCompletes :
    let s := block [0x0C] 0 5 1 5
    let a := s.cmdArgs
    inRange s.lmemSize (bitRegion a.n0 a.n1) = true ∧ inRange s.lmemSize (bitRegion a.n2 a.n3) = true ∧
      overlap (bitRegion a.n0 a.n1) (bitRegion a.n2 a.n3) = false ∧
      s.lmem.readBits a.n0 a.n1 = some [false, false, true, true, false] ∧ a.n1 ≤ a.n3 := by decide

theorem test_witness_NrziInverse : 0 < [true].length ∧ 1 ≤ [true].length := by decide

/-- One zero byte, PREPEND 1, POSTPEND 1: 24 bits, capacity 24. -/
theorem test_witness_LineEncodeCompletes :
    let s := blockCfg 0x101 [0x00] 0 1 0x200 24
    let a := s.cmdArgs
    s.cmdCfg.postpend ≤ s.cmdCfg.prepend ∧
      inRange s.lmemSize (byteRegion a.n0 a.n1) = true ∧ inRange s.lmemSize (bitRegion a.n2 a.n3) = true ∧
      overlap (byteRegion a.n0 a.n1) (bitRegion a.n2 a.n3) = false ∧ s.lmem.readBytes a.n0 a.n1 = some [0x00] ∧
      (nrzi s.cmdCfg.nrziInit (wrap (stuff 0 (bitsOfBytes [0x00])).1 s.cmdCfg.prepend s.cmdCfg.postpend)).1.length ≤ a.n3 := by
  decide

theorem test_witness_LineEncodeRoundTrip :
    let s := blockCfg 0x101 [0xFF] 0 1 0x200 25
    s.lmem.readBytes s.cmdArgs.n0 s.cmdArgs.n1 = some [0xFF] ∧ [0xFF#8] ≠ [] ∧ s.cmdCfg.postpend ≤ s.cmdCfg.prepend ∧
      ∃ t, exec .lineEncode s = .next t ∧ decide (t.err = .none) = true :=
  ⟨by decide, by decide, by decide, next_of_any (by decide)⟩

/-- Each command one unit short. -/
theorem test_witness_CapacityErrors :
    let ok (i : Instr) (s : State) : Bool :=
      decide (firstFailing (checksOf i s.cmdArgs s.cmdCfg) = none) &&
        (inputsOf i s.cmdArgs ++ outputsOf i s.cmdArgs).all (inRange s.lmemSize) &&
        (inputsOf i s.cmdArgs).all fun r => (outputsOf i s.cmdArgs).all fun q => !overlap r q
    (ok .stuffBuf (block [0x1F] 0 5 0x20 5) = true ∧ Memory.readBits [(0, 0x1F#8)] 0 5 = some (List.replicate 5 true) ∧
        5 < (stuff 0 (List.replicate 5 true)).1.length) ∧
      (ok .frameWrap (blockCfg 0x101 [0x01] 0 1 0x40 16) = true ∧ 16 < (wrap [true] 1 1).length) ∧
      (ok .nrziBuf (block [0x0C] 0 5 0x20 4) = true ∧ 4 < 5) ∧
      (ok .synth (block [0x01] 0 2 0x10 12) = true ∧ 12 < sampleCount State.reset.cfg 2) ∧
      (ok .lineEncode (blockCfg 0x101 [0x00] 0 1 0x200 23) = true ∧
        23 < (lineEncoded (blockCfg 0x101 [0x00] 0 1 0x200 23).cmdCfg [0x00]).1.length) := by decide

theorem test_witness_LutProperties : 128 ≤ 128 ∧ 1 ≤ 255 ∧ 255 ≤ 255 ∧ 1 ≤ 127 ∧ 129 ≤ 255 := by decide

/-- The reset configuration, SR = BR, and the smallest bit step. -/
theorem test_witness_SynthPrepCompletes :
    [(8000, 1200), (1200, 1200), (65536, 1)].all (fun p : Nat × Nat =>
      decide (1 ≤ p.1 ∧ 1 ≤ p.2 ∧ p.2 ≤ p.1 ∧ 1 ≤ p.2 * 2 ^ 16 / p.1)) = true := by decide

/-- Both modes, with a capacity that is just enough. -/
theorem test_witness_SynthCompletes :
    [blockCfg 0x34B [0x01] 0 2 0x10 13, blockCfg 0x2034B [0x01] 0 2 0x10 12].all (fun s =>
      let a := s.cmdArgs
      let sr := s.cmdCfg.sampleRate.toNat
      let br := s.cmdCfg.bitRate.toNat
      decide (1 ≤ sr ∧ 1 ≤ br ∧ br ≤ sr ∧ 1 ≤ br * 2 ^ 16 / sr ∧ inRange s.lmemSize (bitRegion a.n0 a.n1) = true ∧
        inRange s.lmemSize (sampleRegion a.n2 a.n3) = true ∧ overlap (bitRegion a.n0 a.n1) (sampleRegion a.n2 a.n3) = false ∧
        s.lmem.readBits a.n0 a.n1 = some [true, false] ∧
        (if s.cmdCfg.synthMode then a.n1 * (sr / br) else a.n1 * sr / br) ≤ a.n3)) = true := by decide

theorem test_witness_SampleLengths :
    1 ≤ State.reset.cfg.bitRate.toNat ∧ State.reset.cfg.sampleRate = 8000 ∧ State.reset.cfg.bitRate = 1200 := by decide

theorem test_witness_SynthesisClosedForms : 1 ≤ 1200 ∧ 1200 ≤ 8000 ∧ 1 ≤ 1200 * 2 ^ 16 / 8000 ∧ 12 < 2 * 8000 / 1200 := by decide

/-- SR = BR, SR = 8·BR and SR = 2^16·BR. -/
theorem test_witness_VariantsAgreeAtPowersOfTwo :
    [(1200, 1200, 0), (9600, 1200, 3), (65536, 1, 16)].all (fun q : Nat × Nat × Nat =>
      let c : Cfg := ⟨BitVec.ofNat 32 q.1, BitVec.ofNat 32 q.2.1, 1200, 2200, 0x34B⟩
      let c' : Cfg := { c with frameCfg := 0x2034B }
      decide (q.2.2 ≤ 16 ∧ 1 ≤ c.bitRate.toNat ∧ c.sampleRate.toNat = c.bitRate.toNat * 2 ^ q.2.2) && !c.synthMode &&
        c'.synthMode) = true := by decide

theorem test_witness_WholeCommandsIgnoreUnitState :
    (∃ t, exec (.frameBuild 0) (block table20 0 0x40 0 0x100) = .next t ∧ decide (t.err = .none) = true) ∧
      (∃ t, exec .lineEncode (blockCfg 0x101 [0x00] 0 1 0x200 24) = .next t ∧ decide (t.err = .none) = true) ∧
      ∃ t, exec .synth (block [0x01] 0 2 0x10 16) = .next t ∧ decide (t.err = .none) = true :=
  ⟨next_of_any (by decide), next_of_any (by decide), next_of_any (by decide)⟩

end Sys2Proof.Tests
end

section
/-!
PROOFS, the completion of a command. What each command has applied when it completes with code 0 (`Effect`), and that every
completion of `exec` is an error code or such an effect (`exec_next`): what a command changes is then read off the effects, and no
later proof opens a command's meaning again.
-/

namespace Sys2Proof.Machine

/-- `command` let `x` through to its body: checks and regions passed and `x` is what the input regions hold (40_common.md R136,
steps 2 to 5). -/
structure Passed {α : Type} (s : State) (checks : List (Bool × ErrCode)) (ins outs : List Region) (input : Option α) (x : α) :
    Prop where
  checks_pass : firstFailing checks = none
  regions_pass : regionError s.lmemSize ins outs = none
  input_eq : input = some x

/-- `Effect s i u`: command `i` in state `s` passed all its checks, and `u` is `s` with its effects applied, before
the completion itself (40_common.md R138). -/
inductive Effect (s : State) : Instr → State → Prop where
  | nop : Effect s .nop s
  | crcInit : Effect s .crcInit ((s.setCrc 0xFFFF).setResult 0x0000FFFF)
  | crcByte (val : Byte) :
      Effect s (.crcByte val) ((s.setCrc (crcStep s.units.crc val)).setResult ((crcStep s.units.crc val).setWidth 32))
  | crcFinal : Effect s .crcFinal (s.setResult ((crcFinal s.units.crc).setWidth 32))
  | crcBuf {bytes : List Byte}
      (passed : Passed s [] [byteRegion s.cmdArgs.n0 s.cmdArgs.n1] []
        (s.lmem.readBytes s.cmdArgs.n0 s.cmdArgs.n1) bytes) :
      Effect s .crcBuf ((s.setCrc (crcFold s.units.crc bytes)).setResult ((crcFinal (crcFold s.units.crc bytes)).setWidth 32))
  | addrEnc {ssid : Nat} {last : Bool} {call : List Byte}
      (passed : Passed s [(decide (6 < s.cmdArgs.n1), .callLen), (decide (15 < ssid), .ssid)]
        [byteRegion s.cmdArgs.n0 s.cmdArgs.n1] [byteRegion s.cmdArgs.n2 7]
        (s.lmem.readBytes s.cmdArgs.n0 s.cmdArgs.n1) call)
      (legal : call.all printable = true) :
      Effect s (.addrEnc ssid last) ((s.store s.cmdArgs.n2 (encodeAddress call ssid last)).setResult 7)
  | frameBuild {ndigi : Nat} {input : List Byte × List Byte}
      (passed : Passed s []
        [byteRegion s.cmdArgs.n0 (8 * addressCount ndigi), byteRegion s.cmdArgs.n1 s.cmdArgs.n2]
        [byteRegion s.cmdArgs.n3 (frameLength ndigi s.cmdArgs.n2)]
        (s.lmem.readTwo s.cmdArgs.n0 (8 * addressCount ndigi) s.cmdArgs.n1 s.cmdArgs.n2) input)
      (legal : tableError (descriptors (addressCount ndigi) input.1) = none) :
      Effect s (.frameBuild ndigi)
        (((s.store s.cmdArgs.n3 (withFcs (frameBody (descriptors (addressCount ndigi) input.1) input.2))).setCrc
          (crcFold 0xFFFF#16 (frameBody (descriptors (addressCount ndigi) input.1) input.2))).setResult
            (BitVec.ofNat 32 (frameLength ndigi s.cmdArgs.n2)))
  | stuffReset : Effect s .stuffReset ((s.setOnesCnt 0).setResult 0)
  | stuffBit (bit : Bool) :
      Effect s (.stuffBit bit)
        ((s.setOnesCnt (stuffStep s.units.onesCnt.toNat bit).2).setResult (bitPacket (stuffStep s.units.onesCnt.toNat bit).1))
  | stuffBuf {bits : Bits} {o : Bits × Nat}
      (passed : Passed s [] [bitRegion s.cmdArgs.n0 s.cmdArgs.n1] [bitRegion s.cmdArgs.n2 s.cmdArgs.n3]
        (s.lmem.readBits s.cmdArgs.n0 s.cmdArgs.n1) bits)
      (out : o = stuff s.units.onesCnt.toNat bits) (fits : o.1.length ≤ s.cmdArgs.n3) :
      Effect s .stuffBuf
        (((s.store s.cmdArgs.n2 (packBits o.1)).setOnesCnt o.2).setResult (BitVec.ofNat 32 o.1.length))
  | frameWrap {bits w : Bits}
      (passed : Passed s (framingChecks s.cmdCfg) [bitRegion s.cmdArgs.n0 s.cmdArgs.n1]
        [bitRegion s.cmdArgs.n2 s.cmdArgs.n3] (s.lmem.readBits s.cmdArgs.n0 s.cmdArgs.n1) bits)
      (out : w = wrap bits s.cmdCfg.prepend s.cmdCfg.postpend) (fits : w.length ≤ s.cmdArgs.n3) :
      Effect s .frameWrap ((s.store s.cmdArgs.n2 (packBits w)).setResult (BitVec.ofNat 32 w.length))
  | nrziSet (bit : Bool) : Effect s (.nrziSet bit) ((s.setLineState bit).setResult ((BitVec.ofBool bit).setWidth 32))
  | nrziBit (bit : Bool) :
      Effect s (.nrziBit bit)
        ((s.setLineState (nrziStep s.units.lineState bit)).setResult (bitPacket [nrziStep s.units.lineState bit]))
  | nrziBuf {bits : Bits} {o : Bits × Bool}
      (passed : Passed s [] [bitRegion s.cmdArgs.n0 s.cmdArgs.n1] [bitRegion s.cmdArgs.n2 s.cmdArgs.n3]
        (s.lmem.readBits s.cmdArgs.n0 s.cmdArgs.n1) bits)
      (out : o = nrzi s.units.lineState bits) (fits : o.1.length ≤ s.cmdArgs.n3) :
      Effect s .nrziBuf
        (((s.store s.cmdArgs.n2 (packBits o.1)).setLineState o.2).setResult (BitVec.ofNat 32 o.1.length))
  | lineEncode {frame : List Byte} {o : Bits × Nat × Bool}
      (passed : Passed s (framingChecks s.cmdCfg) [byteRegion s.cmdArgs.n0 s.cmdArgs.n1]
        [bitRegion s.cmdArgs.n2 s.cmdArgs.n3] (s.lmem.readBytes s.cmdArgs.n0 s.cmdArgs.n1) frame)
      (out : o = lineEncoded s.cmdCfg frame) (fits : o.1.length ≤ s.cmdArgs.n3) :
      Effect s .lineEncode
        ((((s.store s.cmdArgs.n2 (packBits o.1)).setOnesCnt o.2.1).setLineState o.2.2).setResult
          (BitVec.ofNat 32 o.1.length))
  | lutRead (index : Byte) : Effect s (.lutRead index) (s.setResult ((lut index).signExtend 32))
  | synthPrep (passed : Passed s (synthChecks s.cmdCfg) [] [] (some ()) ()) :
      Effect s .synthPrep ((s.prepare s.cmdCfg).setResult (BitVec.ofNat 32 s.cmdCfg.spb))
  | synth {bits : Bits} {o : List Half × Word × Nat}
      (passed : Passed s (synthChecks s.cmdCfg) [bitRegion s.cmdArgs.n0 s.cmdArgs.n1]
        [sampleRegion s.cmdArgs.n2 s.cmdArgs.n3] (s.lmem.readBits s.cmdArgs.n0 s.cmdArgs.n1) bits)
      (out : o = synthesized s.cmdCfg bits) (fits : sampleCount s.cmdCfg s.cmdArgs.n1 ≤ s.cmdArgs.n3) :
      Effect s .synth
        ((((s.store s.cmdArgs.n2 (packSamples o.1)).setAccs o.2.1 o.2.2).prepare s.cmdCfg).setResult
          (BitVec.ofNat 32 (sampleCount s.cmdCfg s.cmdArgs.n1)))

/-- The two ways a command can complete (40_common.md R135): with an error code and no effect, or with its effects. -/
inductive Completion (s : State) (i : Instr) : State → Prop where
  | failed (code : ErrCode) : Completion s i (s.fail code)
  | succeeded {u : State} (effect : Effect s i u) : Completion s i u.succeed

section
variable {α : Type} {s t : State} {i : Instr} {checks : List (Bool × ErrCode)} {ins outs : List Region} {input : Option α}

/-- A command without checks completes with its effects. -/
theorem Effect.completion {u : State} (e : Effect s i u)
    (h : (.next u.succeed : Host.Outcome State Fault Refusal) = .next t) : Completion s i t := by
  cases h
  exact .succeeded e

/-- A command that completes is a `Completion` when every state its body can answer is one of its effects. -/
theorem command_completion {body : α → Except ErrCode State} (h : command s checks ins outs input body = .next t)
    (effect : ∀ {x u}, Passed s checks ins outs input x → body x = .ok u → Effect s i u) : Completion s i t := by
  obtain ⟨code, rfl⟩ | ⟨x, u, hc, hr, hi, hb, rfl⟩ := command_next h
  · exact .failed code
  · exact .succeeded (effect ⟨hc, hr, hi⟩ hb)

/-- The same for a command whose only check after reading its input is that of the capacity. -/
theorem command_capacity_completion {n : α → Nat} {cap : Nat} {u : α → State}
    (h : (command s checks ins outs input fun x => withCapacity (n x) cap (u x)) = .next t)
    (effect : ∀ {x}, Passed s checks ins outs input x → n x ≤ cap → Effect s i (u x)) : Completion s i t := by
  refine command_completion h fun passed hb => ?_
  obtain ⟨fits, rfl⟩ := withCapacity_eq_ok_iff.mp hb
  exact effect passed fits

/-- What `exec` can answer: every completion is an error code or the effects of the command. -/
theorem exec_next (h : exec i s = .next t) : Completion s i t := by
  cases i with
  | nop => exact Effect.completion .nop h
  | crcInit => exact Effect.completion .crcInit h
  | crcByte val => exact Effect.completion (.crcByte val) h
  | crcFinal => exact Effect.completion .crcFinal h
  | crcBuf =>
    dsimp only [exec, execCrcBuf] at h
    refine command_completion h fun passed hb => ?_
    cases hb
    exact .crcBuf passed
  | addrEnc ssid last =>
    dsimp only [exec, execAddrEnc] at h
    refine command_completion h fun passed hb => ?_
    split at hb
    next legal =>
      cases hb
      exact .addrEnc passed legal
    next => cases hb
  | frameBuild ndigi =>
    dsimp only [exec, execFrameBuild] at h
    refine command_completion h fun passed hb => ?_
    split at hb
    next => cases hb
    next legal =>
      cases hb
      exact .frameBuild passed legal
  | stuffReset => exact Effect.completion .stuffReset h
  | stuffBit bit => exact Effect.completion (.stuffBit bit) h
  | stuffBuf =>
    dsimp only [exec, execStuffBuf] at h
    exact command_capacity_completion h fun passed fits => .stuffBuf passed rfl fits
  | frameWrap =>
    dsimp only [exec, execFrameWrap] at h
    exact command_capacity_completion h fun passed fits => .frameWrap passed rfl fits
  | nrziSet bit => exact Effect.completion (.nrziSet bit) h
  | nrziBit bit => exact Effect.completion (.nrziBit bit) h
  | nrziBuf =>
    dsimp only [exec, execNrziBuf] at h
    exact command_capacity_completion h fun passed fits => .nrziBuf passed rfl fits
  | lineEncode =>
    dsimp only [exec, execLineEncode] at h
    exact command_capacity_completion h fun passed fits => .lineEncode passed rfl fits
  | lutRead index => exact Effect.completion (.lutRead index) h
  | synthPrep =>
    dsimp only [exec, execSynthPrep] at h
    refine command_completion h fun passed hb => ?_
    cases hb
    exact .synthPrep passed
  | synth =>
    dsimp only [exec, execSynth] at h
    exact command_capacity_completion h fun passed fits => .synth passed rfl fits

/-- The effects of a command leave A0 to A3, the configuration, OVR and LMEM_SIZE as they were (40_common.md R138, R146). -/
theorem Effect.keeps_hostSide {u : State} (e : Effect s i u) : sameHostSide s u := by
  cases e <;> exact ⟨rfl, rfl, rfl, rfl, rfl, rfl, rfl⟩

theorem Completion.keeps_hostSide (c : Completion s i t) : sameHostSide s t := by
  cases c with
  | failed => exact ⟨rfl, rfl, rfl, rfl, rfl, rfl, rfl⟩
  | succeeded effect => exact effect.keeps_hostSide

end

end Sys2Proof.Machine
end

section
/-!
PROOFS, the writers of the unit state. Which unit-state register each effect writes (10_state.md R36 to R44).
-/

namespace Sys2Proof.Machine

section
variable {s t u : State} {i : Instr}

@[simp] theorem State.prepare_units (c : Cfg) :
    (s.prepare c).units =
      { s.units with
        markStep := c.markStep, spaceStep := c.spaceStep, bitStep := BitVec.ofNat 32 c.bitStep,
        spb := BitVec.ofNat 32 c.spb } := rfl

theorem Effect.crc_eq (e : Effect s i u) (hi : writesCrc i = false) : u.units.crc = s.units.crc := by
  cases e <;> simp [writesCrc] at hi ⊢

theorem Effect.onesCnt_eq (e : Effect s i u) (hi : writesOnesCnt i = false) : u.units.onesCnt = s.units.onesCnt := by
  cases e <;> simp [writesOnesCnt] at hi ⊢

theorem Effect.lineState_eq (e : Effect s i u) (hi : writesLineState i = false) :
    u.units.lineState = s.units.lineState := by
  cases e <;> simp [writesLineState] at hi ⊢

theorem Effect.accs_eq (e : Effect s i u) (hi : writesAccs i = false) :
    u.units.toneAcc = s.units.toneAcc ∧ u.units.bitAcc = s.units.bitAcc := by
  cases e <;> simp [writesAccs] at hi ⊢

theorem Effect.steps_eq (e : Effect s i u) (hi : writesSteps i = false) :
    u.units.markStep = s.units.markStep ∧ u.units.spaceStep = s.units.spaceStep ∧ u.units.bitStep = s.units.bitStep ∧
      u.units.spb = s.units.spb := by
  cases e <;> simp [writesSteps] at hi ⊢

end

/-- Settles O26: an error changes no unit state, and the effects of a command are on the registers its rule names. -/
theorem unitRegisterWriters : Obligations.UnitRegisterWriters := by
  unfold Obligations.UnitRegisterWriters
  intro i s t h
  cases exec_next h with
  | failed code => simp
  | succeeded effect =>
    simp only [State.succeed_units]
    exact ⟨effect.crc_eq, effect.onesCnt_eq, effect.lineState_eq, effect.accs_eq, effect.steps_eq⟩

end Sys2Proof.Machine
end

section
/-!
PROOFS, the outputs of the commands. How long an output is, and how large the counts and accumulators are that a command writes:
what the invariant asks of the stores of a command (20_memory.md R71) and of ONES_CNT, BIT_ACC and BIT_STEP (10_state.md R37, R40,
R43).
-/

namespace Sys2Proof.Machine

/-! ### What passed checks say -/

theorem Passed.output_inRange {α : Type} {s : State} {checks : List (Bool × ErrCode)} {ins outs : List Region}
    {input : Option α} {x : α} (passed : Passed s checks ins outs input x) {q : Region} (hq : q ∈ outs) :
    inRange s.lmemSize q = true :=
  (regionError_eq_none_iff.mp passed.regions_pass).1 q (List.mem_append_right ins hq)

theorem Memory.readTwo_eq_some_iff {m : Memory} {b n b' n' : Nat} {x y : List Byte} :
    m.readTwo b n b' n' = some (x, y) ↔ m.readBytes b n = some x ∧ m.readBytes b' n' = some y := by
  unfold Memory.readTwo
  cases m.readBytes b n <;> cases m.readBytes b' n' <;> simp

/-! ### Bits -/

theorem bytesForBits_le_of_le {n k : Nat} (h : n ≤ k) : bytesForBits n ≤ bytesForBits k := by
  unfold bytesForBits
  omega

/-- `stuff_count_lt` in the form that the invariant has. -/
theorem stuff_count_le {cnt : Nat} (h : cnt ≤ 4) (bits : Bits) : (stuff cnt bits).2 ≤ 4 :=
  Nat.le_of_lt_succ (stuff_count_lt cnt bits (Nat.lt_succ_of_le h))

theorem stuffStep_count_le {cnt : Nat} (h : cnt ≤ 4) (b : Bool) : (stuffStep cnt b).2 ≤ 4 := stuff_count_le h [b]

/-! ### Frames -/

/-- A descriptor's callsign is cut from six bytes (43_frame_builder.md R192). -/
theorem call_length_le_of_mem_descriptors {n : Nat} {l : List Byte} {d : Descriptor} (h : d ∈ descriptors n l) :
    d.call.length ≤ 6 := by
  fun_induction descriptors n l with
  | case1 n c0 c1 c2 c3 c4 c5 ssid c7 rest ih =>
    rcases List.mem_cons.mp h with rfl | h
    · exact List.Sublist.length_le (List.takeWhile_sublist _)
    · exact ih h
  | case2 => cases h

theorem descriptors_length_le (n : Nat) (l : List Byte) : (descriptors n l).length ≤ n := by
  fun_induction descriptors n l with
  | case1 n c0 c1 c2 c3 c4 c5 ssid c7 rest ih => simpa using ih
  | case2 => exact Nat.zero_le _

theorem addressField_length {ds : List Descriptor} (h : ∀ d ∈ ds, d.call.length ≤ 6) :
    (addressField ds).length = 7 * ds.length := by
  fun_induction addressField ds with
  | case1 => rfl
  | case2 d => exact encodeAddress_length _ _ (h d (by simp))
  | case3 d d' ds ih =>
    have first := encodeAddress_length d.ssid.toNat false (h d (by simp))
    have others := ih fun x hx => h x (List.mem_cons_of_mem _ hx)
    simp only [List.length_append, List.length_cons] at first others ⊢
    omega

/-- FRAME_BUILD stores at most the FLEN bytes of its output region (43_frame_builder.md R194). -/
theorem withFcs_frameBody_length_le (ndigi : Nat) (table payload : List Byte) :
    (withFcs (frameBody (descriptors (addressCount ndigi) table) payload)).length ≤ frameLength ndigi payload.length := by
  have addresses := addressField_length fun d (hd : d ∈ descriptors (addressCount ndigi) table) =>
    call_length_le_of_mem_descriptors hd
  have count := descriptors_length_le (addressCount ndigi) table
  simp only [withFcs, frameBody, frameLength, List.length_append, List.length_cons, List.length_nil, addresses]
  omega

/-! ### Samples -/

theorem synthExact_length (mark space : Word) (bs samples : Nat) (bits : Bits) (h : bits = [] → samples = 0) :
    (synthExact mark space bs samples bits).1.length = samples := by
  cases bits with
  | nil => simp [synthExact, h rfl]
  | cons b rest => simp [synthExact]

/-- SYNTH makes as many samples as its capacity check counts (46_tone_synth.md R261, R262). -/
theorem synthesized_length (c : Cfg) (bits : Bits) : (synthesized c bits).1.length = sampleCount c bits.length := by
  unfold synthesized sampleCount
  split
  · exact naiveLoop_length _ _ _ _ _
  · refine synthExact_length _ _ _ _ _ ?_
    rintro rfl
    simp [exactLength]

/-- When the configuration check passes, BIT_RATE is at most SAMPLE_RATE, so BIT_STEP is at most 2^16 (46_tone_synth.md R251). -/
theorem bitStep_le_of_synthChecks {c : Cfg} (h : firstFailing (synthChecks c) = none) : c.bitStep ≤ 2 ^ 16 := by
  obtain ⟨-, -, hle, -⟩ := (firstFailing_synthChecks_eq_none_iff c).mp h
  exact Nat.div_le_of_le_mul (Nat.mul_le_mul_right _ hle)

theorem synthExact_bitAcc_lt (mark space : Word) {bs : Nat} (hbs : bs ≤ 2 ^ 16) (samples : Nat) (bits : Bits) :
    (synthExact mark space bs samples bits).2.2 < 2 ^ 16 := by
  cases bits with
  | nil => simp [synthExact]
  | cons b rest => exact exactLoop_bitAcc_lt mark space hbs samples rest _ _ (by omega)

theorem synthesized_bitAcc_lt {c : Cfg} (h : c.bitStep ≤ 2 ^ 16) (bits : Bits) : (synthesized c bits).2.2 < 2 ^ 16 := by
  unfold synthesized
  split
  · exact Nat.two_pow_pos 16
  · exact synthExact_bitAcc_lt _ _ h _ _

end Sys2Proof.Machine
end

section
/-!
PROOFS, the invariant. It holds at reset; one rule per state operation says when the operation keeps it; so every effect of a
command, every completion and every step keeps it.
-/

namespace Sys2Proof.Machine

/-! ### At reset -/

theorem State.resetOf_inv {size : Nat} (hmin : Config.lmemSizeMin ≤ size) (hmax : size ≤ Config.lmemSizeMax) :
    (State.resetOf size).Inv where
  lmem_wf := State.resetOf_lmem_wf size
  lmem_bound := by simp [State.resetOf]
  size_min := hmin
  size_max := hmax
  ones_le := Nat.zero_le 4
  bitAcc_lt := Nat.two_pow_pos 16
  bitStep_le := Nat.zero_le _
  frameCfg_stored := (by decide : frameCfgStored 0x34B = 0x34B)
  latched_live := by simp [State.resetOf]
  busy_err := by simp [State.resetOf]

/-- Settles O3: the reset state meets the invariant at every legal size, and 65536, the model's choice (log 1), is one. -/
theorem resetMeetsInvariant : Obligations.ResetMeetsInvariant :=
  ⟨fun _ => State.resetOf_inv, State.resetOf_inv (by decide) (by decide)⟩

/-! ### Each state operation -/

namespace State.Inv
variable {s : State}

theorem setResult (h : s.Inv) (v : Word) : (s.setResult v).Inv := { h with }

theorem setCrc (h : s.Inv) (v : Half) : (s.setCrc v).Inv := { h with }

theorem setLineState (h : s.Inv) (b : Bool) : (s.setLineState b).Inv := { h with }

theorem setOnesCnt (h : s.Inv) {n : Nat} (hn : n ≤ 4) : (s.setOnesCnt n).Inv :=
  { h with ones_le := (Nat.mod_le _ _).trans hn }

theorem setAccs (h : s.Inv) (tone : Word) {bit : Nat} (hbit : bit < 2 ^ 16) : (s.setAccs tone bit).Inv :=
  { h with bitAcc_lt := (Nat.mod_le _ _).trans_lt hbit }

theorem prepare (h : s.Inv) {c : Cfg} (hc : c.bitStep ≤ 2 ^ 16) : (s.prepare c).Inv :=
  { h with bitStep_le := (Nat.mod_le _ _).trans hc }

/-- A store inside an in-range region keeps LMEM canonical and below LMEM_SIZE. -/
theorem store (h : s.Inv) {q : Region} (hq : inRange s.lmemSize q = true) {l : List Byte} (hl : l.length ≤ q.len) :
    (s.store q.start l).Inv :=
  { h with
    lmem_wf := Memory.writeBytes_wf h.lmem_wf q.start l
    lmem_bound := fun cell hcell => by
      rcases Memory.mem_writeBytes hcell with hold | ⟨hlow, hhigh⟩
      · exact h.lmem_bound cell hold
      · have := (inRange_eq_true_iff _ _).mp hq
        simp only [State.store_lmemSize]
        omega }

theorem setOvr (h : s.Inv) : s.setOvr.Inv := { h with }

theorem giveData (h : s.Inv) (v : Word) : (s.giveData v).Inv := { h with }

theorem giveUnspecified (h : s.Inv) : s.giveUnspecified.Inv := { h with }

theorem clearSticky (h : s.Inv) (v : Word) : (s.clearSticky v).Inv := { h with }

theorem popEvent (h : s.Inv) : s.popEvent.Inv := { h with }

/-- The arguments may change only while no copy of them is latched (40_common.md R133). -/
theorem setArgs (h : s.Inv) (idle : s.busy = false) (x : Args) : (s.setArgs x).Inv :=
  { h with latched_live := by simp [s.busy_eq_false_iff.mp idle] }

/-- The same for the configuration, where FRAME_CFG keeps its reserved bits 0 (10_state.md R33). -/
theorem setCfg (h : s.Inv) (idle : s.busy = false) {x : Cfg} (hx : frameCfgStored x.frameCfg = x.frameCfg) :
    (s.setCfg x).Inv :=
  { h with
    frameCfg_stored := hx
    latched_live := by simp [s.busy_eq_false_iff.mp idle] }

theorem issue (h : s.Inv) (w : Word) : (s.issue w).Inv :=
  { h with
    latched_live := by simp
    busy_err := fun _ => rfl }

theorem fail (h : s.Inv) (code : ErrCode) : (s.fail code).Inv :=
  { h with
    latched_live := by simp
    busy_err := by simp [State.busy] }

theorem succeed (h : s.Inv) : s.succeed.Inv :=
  { h with
    latched_live := by simp
    busy_err := fun _ => rfl }

theorem applyReset (h : s.Inv) : s.applyReset.Inv := { State.resetOf_inv h.size_min h.size_max with }

/-- A bit output that fits its capacity stays inside its region. -/
theorem storeBits (h : s.Inv) {b n : Nat} (hq : inRange s.lmemSize (bitRegion b n) = true) {o : Bits} (fits : o.length ≤ n) :
    (s.store b (packBits o)).Inv :=
  h.store hq ((packBits_length o).trans_le (bytesForBits_le_of_le fits))

end State.Inv

/-! ### Each completion -/

section
variable {s t u : State} {i : Instr}

/-- The effects of a command keep the invariant: each stores inside its own output region, and writes ONES_CNT, BIT_ACC and
BIT_STEP within their ranges. -/
theorem Effect.keeps_inv (e : Effect s i u) (h : s.Inv) : u.Inv := by
  cases e with
  | nop => exact h
  | crcInit => exact (h.setCrc _).setResult _
  | crcByte val => exact (h.setCrc _).setResult _
  | crcFinal => exact h.setResult _
  | crcBuf passed => exact (h.setCrc _).setResult _
  | @addrEnc ssid last call passed legal =>
    have hlen : call.length ≤ 6 := by
      have hn := Memory.readBytes_length passed.input_eq
      have hcheck := (firstFailing_eq_none_iff _).mp passed.checks_pass (decide (6 < s.cmdArgs.n1), .callLen) (by simp)
      simp only [decide_eq_false_iff_not] at hcheck
      omega
    have hq := passed.output_inRange (List.mem_singleton_self _)
    exact (h.store hq (encodeAddress_length ssid last hlen).le).setResult _
  | @frameBuild ndigi input passed legal =>
    have hpayload := Memory.readBytes_length (Memory.readTwo_eq_some_iff.mp passed.input_eq).2
    have hlen := withFcs_frameBody_length_le ndigi input.1 input.2
    rw [hpayload] at hlen
    exact ((h.store (passed.output_inRange (List.mem_singleton_self _)) hlen).setCrc _).setResult _
  | stuffReset => exact (h.setOnesCnt (Nat.zero_le 4)).setResult _
  | stuffBit bit => exact (h.setOnesCnt (stuffStep_count_le h.ones_le bit)).setResult _
  | @stuffBuf bits o passed out fits =>
    have hcount : o.2 ≤ 4 := out ▸ stuff_count_le h.ones_le bits
    exact ((h.storeBits (passed.output_inRange (List.mem_singleton_self _)) fits).setOnesCnt hcount).setResult _
  | frameWrap passed out fits => exact (h.storeBits (passed.output_inRange (List.mem_singleton_self _)) fits).setResult _
  | nrziSet bit => exact (h.setLineState _).setResult _
  | nrziBit bit => exact (h.setLineState _).setResult _
  | nrziBuf passed out fits =>
    exact ((h.storeBits (passed.output_inRange (List.mem_singleton_self _)) fits).setLineState _).setResult _
  | @lineEncode frame o passed out fits =>
    have hcount : o.2.1 ≤ 4 := out ▸ stuff_count_le (Nat.zero_le 4) (bitsOfBytes frame)
    exact (((h.storeBits (passed.output_inRange (List.mem_singleton_self _)) fits).setOnesCnt hcount).setLineState _).setResult _
  | lutRead index => exact h.setResult _
  | synthPrep passed => exact (h.prepare (bitStep_le_of_synthChecks passed.checks_pass)).setResult _
  | @synth bits o passed out fits =>
    have hstep := bitStep_le_of_synthChecks passed.checks_pass
    have hacc : o.2.2 < 2 ^ 16 := out ▸ synthesized_bitAcc_lt hstep bits
    have hlen : (packSamples o.1).length ≤ 2 * s.cmdArgs.n3 := by
      rw [packSamples_length, out, synthesized_length, Memory.readBits_length passed.input_eq]
      omega
    have hq := passed.output_inRange (List.mem_singleton_self _)
    exact (((h.store hq hlen).setAccs _ hacc).prepare hstep).setResult _

theorem Completion.keeps_inv (c : Completion s i t) (h : s.Inv) : t.Inv := by
  cases c with
  | failed code => exact h.fail code
  | succeeded effect => exact (effect.keeps_inv h).succeed

end

/-! ### Each event -/

section
variable {s t : State}

/-- The ENGINE's turn does nothing, completes a word that is no command, or completes a command (40_common.md R135, R136). -/
theorem engineTurn_next (h : engineTurn s = .next t) :
    t = s ∨ (∃ code, t = s.fail code) ∨ ∃ i, Completion s i t := by
  unfold engineTurn complete at h
  split at h
  · cases h
    exact .inl rfl
  · split at h
    · cases h
      exact .inr (.inl ⟨_, rfl⟩)
    · exact .inr (.inr ⟨_, exec_next h⟩)

theorem engineTurn_keeps_inv (h : s.Inv) (ht : engineTurn s = .next t) : t.Inv := by
  obtain rfl | ⟨code, rfl⟩ | ⟨i, completion⟩ := engineTurn_next ht
  · exact h
  · exact h.fail code
  · exact completion.keeps_inv h

theorem frameCfgStored_idem (v : Word) : frameCfgStored (frameCfgStored v) = frameCfgStored v := by
  simp [frameCfgStored, BitVec.and_assoc]

theorem writeReg_keeps_inv (h : s.Inv) (r : Reg) (v : Word) : (writeReg r v s).Inv := by
  obtain ⟨-, e⟩ | e | ⟨idle, x, e⟩ | ⟨idle, x, e, hx⟩ | ⟨-, e⟩ | e := writeReg_cases r v s <;> rw [e]
  · exact h.issue v
  · exact h.clearSticky v
  · exact h.setArgs idle x
  · refine h.setCfg idle ?_
    rcases hx with hx | hx <;> rw [hx]
    · exact h.frameCfg_stored
    · exact frameCfgStored_idem v
  · exact h.setOvr
  · exact h

theorem hostRead_keeps_inv (h : s.Inv) {offset : BitVec 24} {width : Nat} (ht : hostRead offset width s = .next t) :
    t.Inv := by
  obtain ⟨v, rfl⟩ | rfl := hostRead_next ht
  · exact h.giveData v
  · exact h.giveUnspecified

theorem hostWrite_keeps_inv (h : s.Inv) {offset : BitVec 24} {width : Nat} {value : Word}
    (ht : hostWrite offset width value s = .next t) : t.Inv := by
  obtain ⟨r, rfl⟩ | ⟨a, -, hbound, rfl⟩ := hostWrite_next ht
  · exact writeReg_keeps_inv h r value
  · exact h.store (q := ⟨a, width⟩) ((inRange_eq_true_iff _ _).mpr (.inr hbound)) (bytesOfValue_length _ _).le

theorem runEvent_keeps_inv (h : s.Inv) {e : Event} (ht : runEvent e s = .next t) : t.Inv := by
  cases e with
  | engine => exact engineTurn_keeps_inv h ht
  | read offset width => exact hostRead_keeps_inv h ht
  | write offset width value => exact hostWrite_keeps_inv h ht
  | reset =>
    cases ht
    exact h.applyReset

end

/-- Settles O4: the event is taken off the schedule, and whatever it is, it keeps the invariant. -/
theorem stepKeepsInvariant : Obligations.StepKeepsInvariant :=
  fun _ _ h ht => runEvent_keeps_inv h.popEvent ht

end Sys2Proof.Machine
end

section
/-!
PROOFS, the register map. Which register stands at which offset (10_state.md R23, R46), and what a 4-byte access at a word offset
below 0x100 does: a step is then `readReg` or `writeReg` of that register.
-/

namespace Sys2Proof.Machine

/-! ### The map -/

@[simp] theorem regAt_offsetOf (r : Reg) : regAt (offsetOf r).toNat = r := by
  cases r <;> rfl

/-- The registers that stand at one offset each: all but the reserved one (10_state.md R23). -/
def mappedRegs : List Reg :=
  [.cmd, .status, .result, .id, .a0, .a1, .a2, .a3, .sampleRate, .bitRate, .markFreq, .spaceFreq, .frameCfg, .crc, .onesCnt,
    .lineState, .toneAcc, .bitAcc, .markStep, .spaceStep, .bitStep, .spb, .lmemSize]

theorem mem_mappedRegs_iff (r : Reg) : r ∈ mappedRegs ↔ r ≠ .reserved := by
  cases r <;> decide

theorem offsetOf_injective : Function.Injective offsetOf := fun r r' h => by
  rw [← regAt_offsetOf r, h, regAt_offsetOf]

/-- The registers with access R in the map of 10_state.md R23. -/
def readOnlyRegs : List Reg :=
  [.result, .id, .crc, .onesCnt, .lineState, .toneAcc, .bitAcc, .markStep, .spaceStep, .bitStep, .spb, .lmemSize]

/-- A0 to A3 and the configuration registers: a write stores its value (10_state.md R28 to R33). -/
def storingRegs : List Reg := [.a0, .a1, .a2, .a3, .sampleRate, .bitRate, .markFreq, .spaceFreq, .frameCfg]

/-- RESULT and the unit-state registers (10_state.md R52). -/
def unspecifiedRegs : List Reg :=
  [.result, .crc, .onesCnt, .lineState, .toneAcc, .bitAcc, .markStep, .spaceStep, .bitStep, .spb]

theorem mem_unspecifiedRegs_iff (r : Reg) : r ∈ unspecifiedRegs ↔ r.unspecifiedWhileBusy = true := by
  cases r <;> decide

/-- Outside the reserved offsets, the offset of a register is the only one at which it stands. -/
theorem offsetOf_regAt {offset : BitVec 24} (h : regAt offset.toNat ≠ .reserved) : offsetOf (regAt offset.toNat) = offset := by
  apply BitVec.eq_of_toNat_eq
  generalize offset.toNat = n at h
  fun_cases regAt n
  case case24 => simp [regAt] at h
  all_goals rfl

/-- The reserved offsets of 10_state.md R46. -/
theorem regAt_reserved {n : Nat} (h : 0x34 ≤ n ∧ n ≤ 0x3C ∨ 0x68 ≤ n ∧ n ≤ 0xFC) : regAt n = .reserved := by
  fun_cases regAt n
  case case24 => rfl
  all_goals omega

/-! ### Register accesses -/

section
variable {s : State} {offset : BitVec 24} {v : Word} {rest : List Event}

theorem target_of_word_offset (size : Nat) {n : Nat} (hlt : n < 0x100) (hword : n % 4 = 0) :
    target size n 4 = .reg (regAt n) := by
  simp [target, hlt, hword]

theorem popEvent_of_cons {e : Event} (h : s.schedule = e :: rest) : s.popEvent = { s with schedule := rest } := by
  simp [State.popEvent, h]

theorem step_read_reg (h : s.schedule = .read offset 4 :: rest) (hlt : offset.toNat < 0x100) (hword : offset.toNat % 4 = 0) :
    step s = .next (readReg (regAt offset.toNat) { s with schedule := rest }) := by
  rw [step_of_cons h, popEvent_of_cons h]
  simp [runEvent, hostRead, target_of_word_offset _ hlt hword]

theorem step_write_reg (h : s.schedule = .write offset 4 v :: rest) (hlt : offset.toNat < 0x100)
    (hword : offset.toNat % 4 = 0) : step s = .next (writeReg (regAt offset.toNat) v { s with schedule := rest }) := by
  rw [step_of_cons h, popEvent_of_cons h]
  simp [runEvent, hostWrite, target_of_word_offset _ hlt hword]

/-- A register's offset is a word offset below 0x100. -/
theorem offsetOf_word (r : Reg) : (offsetOf r).toNat < 0x100 ∧ (offsetOf r).toNat % 4 = 0 := by
  cases r <;> decide

/-- `wr REG, v` writes that register (30_encoding.md R111). -/
theorem step_write_offsetOf {r : Reg} (h : s.schedule = .write (offsetOf r) 4 v :: rest) :
    step s = .next (writeReg r v { s with schedule := rest }) := by
  rw [step_write_reg h (offsetOf_word r).1 (offsetOf_word r).2, regAt_offsetOf]

/-- What a register holds does not depend on the model's own schedule. -/
@[simp] theorem regValue_withSchedule (r : Reg) : State.regValue { s with schedule := rest } r = s.regValue r := by
  cases r <;> rfl

@[simp] theorem busy_withSchedule : State.busy { s with schedule := rest } = s.busy := rfl

/-- While BUSY = 1 a read of RESULT or of the unit state answers the next free value (10_state.md R52; log 3). -/
theorem step_read_unspecified (h : s.schedule = .read offset 4 :: rest) (hlt : offset.toNat < 0x100)
    (hword : offset.toNat % 4 = 0) (hb : s.busy = true) (hr : (regAt offset.toNat).unspecifiedWhileBusy = true) :
    step s = .next { s with schedule := rest, readData := some (Config.busyRead s.draws), draws := s.draws + 1 } := by
  rw [step_read_reg h hlt hword, readReg, busy_withSchedule, hb, hr]
  rfl

/-- Every other register read answers what the register holds. -/
theorem step_read_specified (h : s.schedule = .read offset 4 :: rest) (hlt : offset.toNat < 0x100)
    (hword : offset.toNat % 4 = 0) (hspec : ¬ (s.busy = true ∧ (regAt offset.toNat).unspecifiedWhileBusy = true)) :
    step s = .next { s with schedule := rest, readData := some (s.regValue (regAt offset.toNat)) } := by
  rw [step_read_reg h hlt hword, readReg, busy_withSchedule, if_neg (mt Bool.and_eq_true_iff.mp hspec), regValue_withSchedule]
  rfl

/-- A write of a read-only register changes nothing (10_state.md R24). -/
theorem writeReg_of_readOnly {r : Reg} (h : r ∈ readOnlyRegs) : writeReg r v s = s :=
  (by simp [readOnlyRegs, writeReg] : ∀ r ∈ readOnlyRegs, writeReg r v s = s) r h

end

end Sys2Proof.Machine
end

section
/-!
PROOFS, the register obligations of 10_state.md.
-/

namespace Sys2Proof.Machine

/-! ### Reset and STATUS -/

theorem resetOf_status (size : Nat) : (State.resetOf size).status = 0 := (by decide : State.reset.status = 0)

/-- FRAME_CFG after reset and its four fields (10_state.md R33, R51). -/
theorem resetOf_frameCfg (size : Nat) :
    (State.resetOf size).regValue .frameCfg = 0x0000034B ∧ (State.resetOf size).cfg.prepend = 75 ∧
      (State.resetOf size).cfg.postpend = 3 ∧ (State.resetOf size).cfg.nrziInit = false ∧
      (State.resetOf size).cfg.synthMode = false :=
  (by decide : frameCfgStored State.reset.cfg.frameCfg = 0x0000034B ∧ State.reset.cfg.prepend = 75 ∧
    State.reset.cfg.postpend = 3 ∧ State.reset.cfg.nrziInit = false ∧ State.reset.cfg.synthMode = false)

/-- Settles O1: each clause is an entry of the reset table, and 65536 is a legal size. -/
theorem resetRegisterValues : Obligations.ResetRegisterValues := by
  unfold Obligations.ResetRegisterValues
  refine ⟨fun size => ?_, Config.resetLmemSize, by decide, by decide, rfl⟩
  obtain ⟨hframe, hpre, hpost, hnrzi, hmode⟩ := resetOf_frameCfg size
  exact ⟨resetOf_status size, rfl, rfl, rfl, rfl, rfl, rfl, rfl, rfl, rfl, rfl, hframe, hpre, hpost, hnrzi, hmode,
    rfl, rfl, rfl, rfl, rfl, rfl, rfl, rfl, rfl, rfl, rfl, fun _ => rfl⟩

/-- The fields of a word laid out as STATUS is (10_state.md R26). -/
theorem status_fields (ovr errs busy : Bool) (code : BitVec 4) :
    let w : Word := 0#22 ++ BitVec.ofBool ovr ++ BitVec.ofBool errs ++ code ++ 0#3 ++ BitVec.ofBool busy
    w.getLsbD 0 = busy ∧ w.extractLsb' 1 3 = 0 ∧ w.extractLsb' 4 4 = code ∧ w.getLsbD 8 = errs ∧ w.getLsbD 9 = ovr ∧
      w.extractLsb' 10 22 = 0 := by
  revert ovr errs busy code
  decide

theorem State.clearSticky_eq (s : State) (v : Word) :
    s.clearSticky v =
      { s with
        errs := if v.getLsbD 8 then false else s.errs
        ovr := if v.getLsbD 9 then false else s.ovr } := by
  unfold State.clearSticky
  cases v.getLsbD 8 <;> cases v.getLsbD 9 <;> simp

/-- Settles O13: the layout of STATUS, its codes, and a write of it, which is never held back by BUSY. -/
theorem statusRegister : Obligations.StatusRegister := by
  unfold Obligations.StatusRegister
  refine ⟨fun s => status_fields s.ovr s.errs s.busy s.err.code, by decide, fun s v rest h => ?_⟩
  rw [step_write_offsetOf (r := .status) h]
  exact congrArg _ (State.clearSticky_eq _ v)

/-! ### Reads -/

/-- The list of `Obligations.RegisterReads` is the map's offsets with what the registers hold. -/
theorem regValue_list (s : State) :
    mappedRegs.map (fun r => (offsetOf r, s.regValue r)) =
      [(0x00, 0), (0x04, s.status), (0x08, s.result), (0x0C, 0x41465337), (0x10, s.args.a0), (0x14, s.args.a1),
        (0x18, s.args.a2), (0x1C, s.args.a3), (0x20, s.cfg.sampleRate), (0x24, s.cfg.bitRate), (0x28, s.cfg.markFreq),
        (0x2C, s.cfg.spaceFreq), (0x30, s.cfg.frameCfg &&& 0x0003FFFF), (0x40, s.units.crc.setWidth 32),
        (0x44, s.units.onesCnt.setWidth 32), (0x48, if s.units.lineState then 1 else 0), (0x4C, s.units.toneAcc),
        (0x50, s.units.bitAcc), (0x54, s.units.markStep), (0x58, s.units.spaceStep), (0x5C, s.units.bitStep),
        (0x60, s.units.spb), (0x64, BitVec.ofNat 32 s.lmemSize)] := by
  have hline : (BitVec.ofBool s.units.lineState).setWidth 32 = if s.units.lineState then 1 else 0 := by
    cases s.units.lineState <;> rfl
  rw [← hline]
  rfl

/-- The offsets whose reads are unspecified while BUSY = 1 are those of the registers of 10_state.md R52. -/
theorem mem_unspecified_offsets_iff (offset : BitVec 24) :
    offset ∈ unspecifiedRegs.map offsetOf ↔ (regAt offset.toNat).unspecifiedWhileBusy = true := by
  rw [← mem_unspecifiedRegs_iff, List.mem_map]
  constructor
  · rintro ⟨r, hr, rfl⟩
    rwa [regAt_offsetOf]
  · intro hr
    refine ⟨_, hr, offsetOf_regAt fun hres => ?_⟩
    rw [hres] at hr
    exact absurd hr (by decide)

/-- Settles O17: a read is of the register that the map names; an offset of no register is a reserved one, which holds 0. -/
theorem registerReads : Obligations.RegisterReads := by
  unfold Obligations.RegisterReads
  intro s offset rest h hlt hword
  dsimp only
  rw [← regValue_list s,
    show offset ∈ [0x08, 0x40, 0x44, 0x48, 0x4C, 0x50, 0x54, 0x58, 0x5C, 0x60] ↔ _ from mem_unspecified_offsets_iff offset]
  refine ⟨fun ⟨hb, hr⟩ => step_read_unspecified h hlt hword hb hr, fun hspec => ?_⟩
  rw [step_read_specified h hlt hword hspec]
  refine ⟨fun v hv => ?_, fun hv => ?_, rfl⟩
  · obtain ⟨r, -, hr⟩ := List.mem_map.mp hv
    cases hr
    rw [regAt_offsetOf]
  · have hres : regAt offset.toNat = .reserved := by
      by_contra hmapped
      refine hv (s.regValue (regAt offset.toNat)) (List.mem_map.mpr ⟨_, (mem_mappedRegs_iff _).mpr hmapped, ?_⟩)
      rw [offsetOf_regAt hmapped]
    rw [hres]
    rfl

/-! ### Writes -/

/-- Settles O16: the offsets are those of the read-only registers, and writing one of these changes nothing. -/
theorem readOnlyRegistersIgnoreWrites : Obligations.ReadOnlyRegistersIgnoreWrites := by
  unfold Obligations.ReadOnlyRegistersIgnoreWrites
  intro s offset v rest h hmem
  obtain ⟨r, hr, rfl⟩ : ∃ r ∈ readOnlyRegs, offsetOf r = offset := List.mem_map.mp hmem
  rw [step_write_offsetOf h, writeReg_of_readOnly hr]

/-- Settles O15: the map names no register at these offsets. -/
theorem reservedOffsetsReadZero : Obligations.ReservedOffsetsReadZero := by
  unfold Obligations.ReservedOffsetsReadZero
  intro s offset v rest hrange hword
  have hlt : offset.toNat < 0x100 := by omega
  have hres := regAt_reserved hrange
  constructor
  · intro h
    rw [step_read_specified h hlt hword (by simp [hres, Reg.unspecifiedWhileBusy]), hres]
    rfl
  · intro h
    rw [step_write_reg h hlt hword, hres]
    rfl

/-- The argument registers after a value is stored in a register. -/
def storedArgs (r : Reg) (v : Word) (a : Args) : Args :=
  match r with
  | .a0 => { a with a0 := v }
  | .a1 => { a with a1 := v }
  | .a2 => { a with a2 := v }
  | .a3 => { a with a3 := v }
  | _ => a

/-- The configuration registers after a value is stored in a register. -/
def storedCfg (r : Reg) (v : Word) (c : Cfg) : Cfg :=
  match r with
  | .sampleRate => { c with sampleRate := v }
  | .bitRate => { c with bitRate := v }
  | .markFreq => { c with markFreq := v }
  | .spaceFreq => { c with spaceFreq := v }
  | .frameCfg => { c with frameCfg := frameCfgStored v }
  | _ => c

/-- The state after a value is stored in a register. -/
def State.stored (s : State) (r : Reg) (v : Word) : State :=
  { s with args := storedArgs r v s.args, cfg := storedCfg r v s.cfg }

section
variable {s : State} {r r' : Reg} {v : Word}

/-- While idle, a write of a storing register is exactly that store. -/
theorem writeReg_of_storing (hb : s.busy = false) (hr : r ∈ storingRegs) : writeReg r v s = s.stored r v :=
  (by simp [storingRegs, writeReg, whenIdle, hb, State.stored, storedArgs, storedCfg, State.setArgs, State.setCfg] :
    ∀ r ∈ storingRegs, writeReg r v s = s.stored r v) r hr

/-- A stored value reads back, of FRAME_CFG its bits 17:0. -/
theorem regValue_stored_same (hr : r ∈ storingRegs) :
    (s.stored r v).regValue r = if r = .frameCfg then frameCfgStored v else v :=
  (by simp [storingRegs, State.regValue, State.stored, storedArgs, storedCfg, frameCfgStored_idem] :
    ∀ r ∈ storingRegs, (s.stored r v).regValue r = if r = .frameCfg then frameCfgStored v else v) r hr

/-- Every other register reads as before the store. -/
theorem regValue_stored_other (hne : r' ≠ r) : (s.stored r v).regValue r' = s.regValue r' := by
  cases r' with
  | a0 | a1 | a2 | a3 =>
    simp only [State.regValue, State.stored, storedArgs]
    split <;> simp at hne ⊢
  | sampleRate | bitRate | markFreq | spaceFreq | frameCfg =>
    simp only [State.regValue, State.stored, storedCfg]
    split <;> simp at hne ⊢
  | _ => rfl

theorem step_write_storing {rest : List Event} (h : s.schedule = .write (offsetOf r) 4 v :: rest) (hb : s.busy = false)
    (hr : r ∈ storingRegs) : step s = .next (State.stored { s with schedule := rest } r v) :=
  (step_write_offsetOf h).trans (congrArg _ (writeReg_of_storing hb hr))

end

/-- Settles O14: the write is the store of its register, and each clause reads one register of it. -/
theorem idleWritesStore : Obligations.IdleWritesStore := by
  unfold Obligations.IdleWritesStore
  intro s offset v rest h hb hmem
  obtain ⟨r, hr, rfl⟩ : ∃ r ∈ storingRegs, offsetOf r = offset := List.mem_map.mp hmem
  refine ⟨_, step_write_storing h hb hr, ?_⟩
  rw [regAt_offsetOf]
  refine ⟨fun ho => ?_, fun ho => ?_, fun ho => ?_, fun ho => ?_, fun ho => ?_, fun ho => ?_, fun ho => ?_, fun ho => ?_,
    fun ho => ?_, ?_, fun r' hne => ?_, rfl, s.busy_eq_false_iff.mp hb, rfl⟩
  · cases offsetOf_injective (a₂ := .a0) ho; exact ⟨rfl, rfl⟩
  · cases offsetOf_injective (a₂ := .a1) ho; exact ⟨rfl, rfl⟩
  · cases offsetOf_injective (a₂ := .a2) ho; exact ⟨rfl, rfl⟩
  · cases offsetOf_injective (a₂ := .a3) ho; exact ⟨rfl, rfl⟩
  · cases offsetOf_injective (a₂ := .sampleRate) ho; exact ⟨rfl, rfl⟩
  · cases offsetOf_injective (a₂ := .bitRate) ho; exact ⟨rfl, rfl⟩
  · cases offsetOf_injective (a₂ := .markFreq) ho; exact ⟨rfl, rfl⟩
  · cases offsetOf_injective (a₂ := .spaceFreq) ho; exact ⟨rfl, rfl⟩
  · cases offsetOf_injective (a₂ := .frameCfg) ho; exact ⟨rfl, rfl⟩
  · have hframe : offsetOf r = 0x30 ↔ r = .frameCfg := offsetOf_injective.eq_iff (b := .frameCfg)
    rw [regValue_stored_same hr]
    exact if_congr hframe.symm rfl rfl
  · rw [regValue_stored_other hne, regValue_withSchedule]

/-! ### What no access and no step changes -/

theorem writeReg_units_result (r : Reg) (v : Word) (s : State) :
    (writeReg r v s).units = s.units ∧ (writeReg r v s).result = s.result := by
  obtain ⟨-, e⟩ | e | ⟨-, x, e⟩ | ⟨-, x, e, -⟩ | ⟨-, e⟩ | e := writeReg_cases r v s <;> rw [e] <;>
    exact ⟨rfl, rfl⟩

theorem writeReg_lmemSize (r : Reg) (v : Word) (s : State) : (writeReg r v s).lmemSize = s.lmemSize := by
  obtain ⟨-, e⟩ | e | ⟨-, x, e⟩ | ⟨-, x, e, -⟩ | ⟨-, e⟩ | e := writeReg_cases r v s <;> rw [e] <;> rfl

theorem runEvent_lmemSize {s t : State} {e : Event} (h : runEvent e s = .next t) : t.lmemSize = s.lmemSize := by
  cases e with
  | engine =>
    obtain rfl | ⟨code, rfl⟩ | ⟨i, completion⟩ := engineTurn_next h
    · rfl
    · rfl
    · obtain ⟨-, -, -, hsize, -⟩ := completion.keeps_hostSide
      exact hsize
  | read offset width => obtain ⟨v, rfl⟩ | rfl := hostRead_next h <;> rfl
  | write offset width value =>
    obtain ⟨r, rfl⟩ | ⟨a, -, -, rfl⟩ := hostWrite_next h
    · exact writeReg_lmemSize r value s
    · rfl
  | reset =>
    cases h
    rfl

/-- Settles O21: a read gives data; a write is a register write or a store into LMEM. -/
theorem hostNeverWritesUnitState : Obligations.HostNeverWritesUnitState := by
  unfold Obligations.HostNeverWritesUnitState
  rintro s t rest offset width v (h | h) ht <;> rw [step_of_cons h] at ht
  · obtain ⟨v, rfl⟩ | rfl := hostRead_next ht <;> exact ⟨rfl, rfl⟩
  · obtain ⟨r, rfl⟩ | ⟨a, -, -, rfl⟩ := hostWrite_next ht
    · exact writeReg_units_result r v s.popEvent
    · exact ⟨rfl, rfl⟩

/-- Settles O5: a legal size fits the register, LMEM_SIZE is a read-only register, and no event changes the size. -/
theorem lmemSizeIsConstant : Obligations.LmemSizeIsConstant := by
  unfold Obligations.LmemSizeIsConstant
  refine ⟨fun s t ht => runEvent_lmemSize (s := s.popEvent) ht,
    fun s rest h hmax => ⟨BitVec.ofNat 32 s.lmemSize, ?_, ?_⟩, fun s v rest h => ?_⟩
  · have : Config.lmemSizeMax < 2 ^ 32 := by decide
    rw [BitVec.toNat_ofNat, Nat.mod_eq_of_lt (by omega)]
  · exact step_read_specified h (by decide) (by decide) (by simp [regAt, Reg.unspecifiedWhileBusy])
  · exact readOnlyRegistersIgnoreWrites s 0x64 v rest h (by decide)

end Sys2Proof.Machine
end

section
/-!
PROOFS, the memory a command reads and stores. Every command is the shared order of checks over the spec's own tables
(`exec_eq_command`), so it stops only on an unwritten byte of its input regions (20_memory.md R90); and its effects store inside
its `storeRegionOf` only (`Effect.storesWithin`, R82).
-/

namespace Sys2Proof.Machine

/-! ### Reading the input regions -/

/-- Some byte of the regions was not written since reset (20_memory.md R90). -/
def Memory.Unwritten (m : Memory) (regions : List Region) : Prop :=
  ∃ q ∈ regions, ∃ j, j < q.len ∧ m.read (q.start + j) = none

section
variable (m : Memory)

@[simp] theorem Memory.not_unwritten_nil : ¬ m.Unwritten [] := by
  simp [Memory.Unwritten]

/-- A region holds an unwritten byte exactly when `ReadBytes` of it answers nothing. -/
@[simp] theorem Memory.unwritten_cons_iff (q : Region) (regions : List Region) :
    m.Unwritten (q :: regions) ↔ m.readBytes q.start q.len = none ∨ m.Unwritten regions := by
  simp [Memory.Unwritten, Memory.readBytes_eq_none_iff]

theorem Memory.readBytes_eq_none_iff_unwritten (b n : Nat) : m.readBytes b n = none ↔ m.Unwritten [byteRegion b n] := by
  simp [byteRegion]

theorem Memory.readBits_eq_none_iff_unwritten (b n : Nat) : m.readBits b n = none ↔ m.Unwritten [bitRegion b n] := by
  simp [Memory.readBits, bitRegion]

theorem Memory.readTwo_eq_none_iff_unwritten (b n b' n' : Nat) :
    m.readTwo b n b' n' = none ↔ m.Unwritten [byteRegion b n, byteRegion b' n'] := by
  unfold Memory.readTwo
  cases hx : m.readBytes b n <;> cases hy : m.readBytes b' n' <;> simp [byteRegion, hx, hy]

end

/-! ### Every command is the shared order of checks -/

/-- The spec's table negates each of the four conditions of the synthesis configuration (46_tone_synth.md R251). -/
theorem checksOf_synth (a : Args) (c : Cfg) : checksOf .synth a c = synthChecks c := by
  simp only [synthChecks, synthConfigOk, checksOf, Bool.not_and, ← decide_not, Nat.not_le]
  rfl

theorem checksOf_synthPrep (a : Args) (c : Cfg) : checksOf .synthPrep a c = synthChecks c := checksOf_synth a c

/-- A command that only has effects is the shared order of checks with nothing to check and nothing to read. -/
theorem succeed_eq_command (s u : State) :
    (.next u.succeed : Host.Outcome State Fault Refusal) = command s [] [] [] (some ()) fun _ => .ok u := rfl

/-- Every command runs the shared order of checks (40_common.md R136) over its checks and regions in the spec's tables, and its
input is missing exactly when a byte of its input regions is unwritten. -/
theorem exec_eq_command (i : Instr) (s : State) :
    ∃ (α : Type) (input : Option α) (body : α → Except ErrCode State),
      exec i s =
          command s (checksOf i s.cmdArgs s.cmdCfg) (inputsOf i s.cmdArgs) (outputsOf i s.cmdArgs) input body ∧
        (input = none ↔ s.lmem.Unwritten (inputsOf i s.cmdArgs)) := by
  cases i with
  | nop | crcInit | crcByte | crcFinal | stuffReset | stuffBit | nrziSet | nrziBit | lutRead =>
    exact ⟨_, _, _, succeed_eq_command s _, by simp [inputsOf]⟩
  | crcBuf =>
    dsimp only [exec, execCrcBuf]
    exact ⟨_, _, _, rfl, Memory.readBytes_eq_none_iff_unwritten _ _ _⟩
  | addrEnc | lineEncode => exact ⟨_, _, _, rfl, Memory.readBytes_eq_none_iff_unwritten _ _ _⟩
  | frameBuild => exact ⟨_, _, _, rfl, Memory.readTwo_eq_none_iff_unwritten _ _ _ _ _⟩
  | stuffBuf | frameWrap | nrziBuf => exact ⟨_, _, _, rfl, Memory.readBits_eq_none_iff_unwritten _ _ _⟩
  | synthPrep =>
    rw [checksOf_synthPrep]
    dsimp only [exec, execSynthPrep]
    exact ⟨_, _, _, rfl, by simp [inputsOf]⟩
  | synth =>
    rw [checksOf_synth]
    exact ⟨_, _, _, rfl, Memory.readBits_eq_none_iff_unwritten _ _ _⟩

/-- Settles O25: the shared order of checks is never refused, and faults only where the input is missing. -/
theorem commandFaultsOnlyOnUnwrittenInput : Obligations.CommandFaultsOnlyOnUnwrittenInput := by
  unfold Obligations.CommandFaultsOnlyOnUnwrittenInput
  intro i s
  obtain ⟨α, input, body, hexec, hinput⟩ := exec_eq_command i s
  rw [hexec]
  refine ⟨fun r h => ?_, fun r => command_not_refused⟩
  obtain ⟨hr, -, -, hnone⟩ := command_fault h
  exact ⟨hr, hinput.mp hnone⟩

/-! ### Storing the output -/

/-- `m'` is `m` after at most the bytes of region `r` were stored, from its start upward. -/
def Memory.StoresWithin (m m' : Memory) (r : Region) : Prop :=
  ∃ l : List Byte, l.length ≤ r.len ∧ m' = m.writeBytes r.start l

theorem Memory.StoresWithin.read_outside {m m' : Memory} {r : Region} (h : m.StoresWithin m' r) {a : Nat}
    (ha : a < r.start ∨ r.start + r.len ≤ a) : m'.read a = m.read a := by
  obtain ⟨l, hlen, rfl⟩ := h
  exact Memory.read_writeBytes_outside m r.start l a (by omega)

theorem Memory.storesWithin_self (m : Memory) (r : Region) : m.StoresWithin m r := ⟨[], Nat.zero_le _, rfl⟩

section
variable {s t u : State} {i : Instr}

/-- A packed bit output fills exactly its `bitStore`. -/
theorem storesWithin_bitStore {α : Type} {input : Option α} {x : α} (hx : input = some x) (out : α → Bits) :
    s.lmem.StoresWithin (s.lmem.writeBytes s.cmdArgs.n2 (packBits (out x))) (bitStore s input out) := by
  subst hx
  exact ⟨_, (packBits_length (out x)).le, rfl⟩

/-- The effects of a command store bytes of its `storeRegionOf` only (20_memory.md R82). -/
theorem Effect.storesWithin (e : Effect s i u) : s.lmem.StoresWithin u.lmem (storeRegionOf i s) := by
  cases e with
  | nop | crcInit | crcByte | crcFinal | crcBuf | stuffReset | stuffBit | nrziSet | nrziBit | lutRead | synthPrep =>
    exact s.lmem.storesWithin_self _
  | @addrEnc ssid last call passed legal =>
    have hcheck : ¬ 6 < s.cmdArgs.n1 := by
      simpa using (firstFailing_eq_none_iff _).mp passed.checks_pass (decide (6 < s.cmdArgs.n1), .callLen) (by simp)
    have hcall := Memory.readBytes_length passed.input_eq
    exact ⟨_, (encodeAddress_length ssid last (by omega)).le, rfl⟩
  | @frameBuild ndigi input passed legal =>
    have hlen := withFcs_frameBody_length_le ndigi input.1 input.2
    rw [Memory.readBytes_length (Memory.readTwo_eq_some_iff.mp passed.input_eq).2] at hlen
    exact ⟨_, hlen, rfl⟩
  | stuffBuf passed out fits | frameWrap passed out fits | nrziBuf passed out fits | lineEncode passed out fits =>
    subst out
    exact storesWithin_bitStore passed.input_eq _
  | @synth bits o passed out fits =>
    have hlen : (packSamples o.1).length = 2 * sampleCount s.cmdCfg s.cmdArgs.n1 := by
      rw [packSamples_length, out, synthesized_length, Memory.readBits_length passed.input_eq]
    exact ⟨_, hlen.le, rfl⟩

theorem Completion.storesWithin (c : Completion s i t) : s.lmem.StoresWithin t.lmem (storeRegionOf i s) := by
  cases c with
  | failed code => exact s.lmem.storesWithin_self _
  | succeeded effect => exact effect.storesWithin

end

/-- Settles O27: a completion stores bytes of the command's `storeRegionOf` only. -/
theorem memoryFrame : Obligations.MemoryFrame := by
  unfold Obligations.MemoryFrame
  exact fun i s t h a ha => (exec_next h).storesWithin.read_outside ha

end Sys2Proof.Machine
end

section
/-!
PROOFS, the LMEM window and the host-port map. Where an access goes (20_memory.md R73 to R75), what a host access answers at each
target, and that a window write is little-endian (R76).
-/

namespace Sys2Proof.Machine

/-! ### The map -/

theorem windowAccessOk_eq_true_iff (a width : Nat) :
    windowAccessOk a width = true ↔ (width = 1 ∨ width = 2 ∨ width = 4) ∧ a % width = 0 := by
  simp [windowAccessOk, or_assoc]

/-- The accesses that the map and the access rules forbid. -/
theorem target_eq_busError_iff (size offset width : Nat) :
    target size offset width = .busError ↔
      (offset < 0x100 ∧ ¬ (width = 4 ∧ offset % 4 = 0)) ∨ (0x100 ≤ offset ∧ offset < 0x800000) ∨
        (0x800000 ≤ offset ∧
          ¬ ((width = 1 ∨ width = 2 ∨ width = 4) ∧ (offset - 0x800000) % width = 0 ∧
            offset - 0x800000 + width ≤ size)) := by
  unfold target
  by_cases hreg : offset < 0x100
  · rw [if_pos hreg, ite_eq_right_iff]
    simp [hreg, show ¬ 0x100 ≤ offset by omega, show ¬ 0x800000 ≤ offset by omega]
  · rw [if_neg hreg]
    by_cases hgap : offset < 0x800000
    · simp [hreg, hgap, show 0x100 ≤ offset by omega, show ¬ 0x800000 ≤ offset by omega]
    · rw [if_neg hgap, ite_eq_right_iff]
      simp [windowAccessOk_eq_true_iff, hreg, hgap, show 0x800000 ≤ offset by omega]

/-- An aligned access of 1, 2 or 4 bytes inside LMEM goes to its bytes. -/
theorem target_window {size offset width : Nat} (hbase : 0x800000 ≤ offset) (hwidth : width = 1 ∨ width = 2 ∨ width = 4)
    (halign : (offset - 0x800000) % width = 0) (hsize : offset - 0x800000 + width ≤ size) :
    target size offset width = .lmem (offset - 0x800000) := by
  rw [target, if_neg (by omega), if_neg (by omega),
    if_pos ⟨(windowAccessOk_eq_true_iff _ _).mpr ⟨hwidth, halign⟩, hsize⟩]

/-! ### Host accesses -/

section
variable {s : State} {offset : BitVec 24} {width a : Nat} {v : Word}

theorem hostRead_busError_iff :
    hostRead offset width s = .fault .busError ↔ target s.lmemSize offset.toNat width = .busError := by
  unfold hostRead
  split
  next h => simp [h]
  next r h => simp [h]
  next a h =>
    split
    · simp [h]
    · split <;> simp [h]

theorem hostWrite_busError_iff :
    hostWrite offset width v s = .fault .busError ↔ target s.lmemSize offset.toNat width = .busError := by
  unfold hostWrite
  split
  next h => simp [h]
  next r h => simp [h]
  next a h => split <;> simp [h]

theorem hostRead_lmem_busy (ht : target s.lmemSize offset.toNat width = .lmem a) (hb : s.busy = true) :
    hostRead offset width s = .fault .hostLmemWhileBusy := by
  simp [hostRead, ht, hb]

theorem hostWrite_lmem_busy (ht : target s.lmemSize offset.toNat width = .lmem a) (hb : s.busy = true) :
    hostWrite offset width v s = .fault .hostLmemWhileBusy := by
  simp [hostWrite, ht, hb]

theorem hostWrite_lmem_idle (ht : target s.lmemSize offset.toNat width = .lmem a) (hb : s.busy = false) :
    hostWrite offset width v s = .next (s.store a (bytesOfValue width v.toNat)) := by
  simp [hostWrite, ht, hb]

theorem hostRead_lmem_idle (ht : target s.lmemSize offset.toNat width = .lmem a) (hb : s.busy = false) {bytes : List Byte}
    (hm : s.lmem.readBytes a width = some bytes) :
    hostRead offset width s = .next (s.giveData (BitVec.ofNat 32 (littleEndian bytes))) := by
  simp [hostRead, ht, hb, hm]

theorem hostRead_unwritten_iff (ht : target s.lmemSize offset.toNat width = .lmem a) (hb : s.busy = false) :
    hostRead offset width s = .fault .hostReadUnwritten ↔ s.lmem.readBytes a width = none := by
  cases hm : s.lmem.readBytes a width with
  | none => simp [hostRead, ht, hb, hm]
  | some bytes => simp [hostRead_lmem_idle ht hb hm]

end

/-- Settles O18: an access is a bus error exactly where the map has no target, and BUSY is not looked at. -/
theorem busErrorsExactly : Obligations.BusErrorsExactly := by
  unfold Obligations.BusErrorsExactly
  intro s offset width v rest
  dsimp only
  rw [← target_eq_busError_iff]
  constructor <;> intro h <;> rw [step_of_cons h]
  · exact hostRead_busError_iff
  · exact hostWrite_busError_iff

/-- Settles O20: the access goes to LMEM, where BUSY comes first and then the unwritten bytes. -/
theorem lmemAccessFaults : Obligations.LmemAccessFaults := by
  unfold Obligations.LmemAccessFaults
  intro s offset width v rest hbase hwidth halign hsize
  have ht := target_window hbase hwidth halign hsize
  refine ⟨fun h hb => ?_, fun h hb => ?_, fun h hb => ?_⟩ <;> rw [step_of_cons h]
  · exact hostRead_lmem_busy (s := s.popEvent) ht hb
  · exact hostWrite_lmem_busy (s := s.popEvent) ht hb
  · rw [← Memory.readBytes_eq_none_iff]
    exact hostRead_unwritten_iff (s := s.popEvent) ht hb

/-! ### Little-endian bytes -/

/-- Byte `j` of a value is its bits from `8 * j` upward (20_memory.md R76). -/
theorem bytesOfValue_getElem (n x j : Nat) (h : j < (bytesOfValue n x).length) :
    (bytesOfValue n x)[j] = BitVec.ofNat 8 (x / 256 ^ j) := by
  induction n generalizing x j with
  | zero => simp [bytesOfValue] at h
  | succ n ih =>
    cases j with
    | zero => simp [bytesOfValue]
    | succ j => simp [bytesOfValue, ih, Nat.div_div_eq_div_mul, Nat.pow_succ']

theorem extractLsb'_byte (v : Word) (j : Nat) : v.extractLsb' (8 * j) 8 = BitVec.ofNat 8 (v.toNat / 256 ^ j) := by
  apply BitVec.eq_of_toNat_eq
  simp [BitVec.extractLsb'_toNat, Nat.shiftRight_eq_div_pow, Nat.pow_mul]

/-- Reading a value's low bytes back gives the value modulo their range. -/
theorem littleEndian_bytesOfValue (n x : Nat) : littleEndian (bytesOfValue n x) = x % 2 ^ (8 * n) := by
  induction n generalizing x with
  | zero => simp [bytesOfValue, littleEndian, Nat.mod_one]
  | succ n ih =>
    rw [show 2 ^ (8 * (n + 1)) = 256 * 2 ^ (8 * n) by rw [Nat.mul_succ, Nat.pow_add, Nat.mul_comm], Nat.mod_mul]
    simp [bytesOfValue, littleEndian, ih]

/-- Settles O19: the write stores the value's bytes at the window address, and the read finds what was stored. -/
theorem lmemWindowWriteReadBack : Obligations.LmemWindowWriteReadBack := by
  unfold Obligations.LmemWindowWriteReadBack
  intro s offset width v rest h hb hbase hwidth halign hsize
  have ht := target_window hbase hwidth halign hsize
  have hlen := bytesOfValue_length width v.toNat
  refine ⟨s.lmem.writeBytes (offset.toNat - 0x800000) (bytesOfValue width v.toNat),
    fun j hj => ?_, fun a ha => ?_, ?_, ?_⟩
  · rw [Memory.read_writeBytes_inside _ _ _ j (by omega), bytesOfValue_getElem, extractLsb'_byte]
  · exact Memory.read_writeBytes_outside _ _ _ a (by omega)
  · rw [step_of_cons h, popEvent_of_cons h]
    exact hostWrite_lmem_idle (s := { s with schedule := _ }) ht hb
  · have hread := Memory.readBytes_writeBytes s.lmem (offset.toNat - 0x800000) (bytesOfValue width v.toNat)
    rw [hlen] at hread
    rw [← littleEndian_bytesOfValue]
    exact hostRead_lmem_idle (s := { s with schedule := rest, lmem := _ }) ht hb hread

end Sys2Proof.Machine
end

section
/-!
PROOFS, encoding. A word is its OPC and IMM fields (30_encoding.md R101). Each format accepts exactly the IMM fields that hold an
operand and 0 in every reserved bit (R103), so a word decodes exactly to the well-formed command whose word it is. From this follow
the words in error (R107 to R109) and what the ENGINE's turn does with them.
-/

namespace Sys2Proof

/-! ### Fields -/

@[simp] theorem opcField_encode (i : Instr) : opcField (encode i) = opcodeOf i := BitVec.extractLsb'_append_eq_left

@[simp] theorem immField_encode (i : Instr) : immField (encode i) = immediateOf i := BitVec.extractLsb'_append_eq_right

theorem opcField_append_immField (w : Word) : opcField w ++ immField w = w := by
  simp only [opcField, immField]
  rw [BitVec.extractLsb'_append_extractLsb'_eq_extractLsb' (by decide), BitVec.extractLsb'_eq_self]

/-- The word of a command is the one with the command's opcode and immediate field. -/
theorem encode_eq_iff {i : Instr} {w : Word} : encode i = w ↔ opcField w = opcodeOf i ∧ immField w = immediateOf i := by
  constructor
  · rintro rfl
    exact ⟨opcField_encode i, immField_encode i⟩
  · rintro ⟨hopc, himm⟩
    rw [← opcField_append_immField w, hopc, himm, encode]

/-! ### Formats -/

/-- The bits from `n` upward are 0 exactly where the value is its low `n` bits. -/
theorem extractLsb'_eq_zero_iff_setWidth {k : Nat} (n m : Nat) (x : BitVec k) (hk : k = n + m) :
    x.extractLsb' n m = 0#m ↔ x = (x.extractLsb' 0 n).setWidth k := by
  have hhigh : x.toNat / 2 ^ n < 2 ^ m := Nat.div_lt_of_lt_mul (by rw [← Nat.pow_add, ← hk]; exact x.isLt)
  have hlow : x.toNat % 2 ^ n < 2 ^ k := (Nat.mod_le _ _).trans_lt x.isLt
  simp only [← BitVec.toNat_inj, BitVec.extractLsb'_toNat, BitVec.toNat_setWidth, BitVec.toNat_zero,
    Nat.shiftRight_eq_div_pow, Nat.pow_zero, Nat.div_one, Nat.mod_eq_of_lt hhigh, Nat.mod_eq_of_lt hlow]
  rw [Nat.div_eq_zero_iff_lt (Nat.two_pow_pos n), eq_comm, Nat.mod_eq_iff_lt (Nat.two_pow_pos n).ne']

section
variable {imm : BitVec 24} {i : Instr}

/-- A format with `m` reserved bits above an `n`-bit operand accepts exactly the operands themselves, zero-extended. -/
theorem reserved_eq_ok_iff (n m : Nat) (hk : 24 = n + m) (f : BitVec n → Instr) :
    (if imm.extractLsb' n m = 0#m then Except.ok (f (imm.extractLsb' 0 n)) else .error DecodeError.field) = .ok i ↔
      ∃ v : BitVec n, imm = v.setWidth 24 ∧ f v = i := by
  simp only [extractLsb'_eq_zero_iff_setWidth n m imm hk]
  constructor
  · intro h
    split at h
    next himm => exact ⟨_, himm, Except.ok.inj h⟩
    next => cases h
  · rintro ⟨v, rfl, rfl⟩
    rw [BitVec.extractLsb'_setWidth_of_le (by omega), BitVec.extractLsb'_eq_self, if_pos rfl]

/-- No format reports an illegal opcode: what it can refuse is a reserved bit (30_encoding.md R108). -/
theorem reserved_ne_opcode_error (p : Prop) [Decidable p] :
    (if p then Except.ok i else .error DecodeError.field) ≠ .error .opcode := by
  split <;> simp

/-- Format Z accepts only the empty IMM field (30_encoding.md R103). -/
theorem formatZ_eq_ok_iff {c : Instr} : formatZ imm c = .ok i ↔ imm = 0 ∧ c = i := by
  simp only [formatZ]
  split <;> simp [*]

/-- Format B8 accepts the bytes (30_encoding.md R103). -/
theorem formatB8_eq_ok_iff {f : Byte → Instr} : formatB8 imm f = .ok i ↔ ∃ v : Byte, imm = v.setWidth 24 ∧ f v = i :=
  reserved_eq_ok_iff 8 16 rfl f

/-- Format B1 accepts the single bits (30_encoding.md R103). -/
theorem formatB1_eq_ok_iff {f : Bool → Instr} :
    formatB1 imm f = .ok i ↔ ∃ b, imm = BitVec.setWidth 24 (BitVec.ofBool b) ∧ f b = i := by
  have h := reserved_eq_ok_iff (imm := imm) (i := i) 1 23 rfl fun v => f (v.getLsbD 0)
  rw [BitVec.getLsbD_extractLsb'] at h
  refine h.trans ⟨?_, ?_⟩
  · rintro ⟨v, rfl, rfl⟩
    exact ⟨v.getLsbD 0, by rw [← BitVec.setWidth_one, BitVec.setWidth_eq], rfl⟩
  · rintro ⟨b, rfl, rfl⟩
    exact ⟨BitVec.ofBool b, rfl, by simp⟩

/-- A value is its highest bit above its other bits. -/
theorem ofBool_append_extractLsb' (n : Nat) (v : BitVec (1 + n)) : BitVec.ofBool (v.getLsbD n) ++ v.extractLsb' 0 n = v := by
  ext k hk
  rw [BitVec.getElem_append]
  split
  · simp [BitVec.getLsbD_eq_getElem hk]
  · obtain rfl : k = n := by omega
    simp

/-- Format AE accepts an 8-bit SSID with LAST above it (30_encoding.md R103). -/
theorem formatAE_eq_ok_iff {f : Nat → Bool → Instr} : formatAE imm f = .ok i ↔
    ∃ ssid last, ssid < 256 ∧ imm = BitVec.setWidth 24 (BitVec.ofBool last ++ BitVec.ofNat 8 ssid) ∧ f ssid last = i := by
  have h := reserved_eq_ok_iff (imm := imm) (i := i) 9 15 rfl fun v => f (v.extractLsb' 0 8).toNat (v.getLsbD 8)
  rw [BitVec.extractLsb'_extractLsb'_of_le (by decide), BitVec.getLsbD_extractLsb'] at h
  refine h.trans ⟨?_, ?_⟩
  · rintro ⟨v, rfl, rfl⟩
    refine ⟨(v.extractLsb' 0 8).toNat, v.getLsbD 8, BitVec.isLt _, ?_, rfl⟩
    rw [BitVec.ofNat_toNat, BitVec.setWidth_eq, ofBool_append_extractLsb' 8 v]
  · rintro ⟨ssid, last, hlt, rfl, rfl⟩
    refine ⟨BitVec.ofBool last ++ BitVec.ofNat 8 ssid, rfl, ?_⟩
    rw [BitVec.extractLsb'_append_eq_right, BitVec.getLsbD_append, BitVec.toNat_ofNat, Nat.mod_eq_of_lt hlt]
    simp

/-- Format FB accepts a 4-bit NDIGI (30_encoding.md R103). -/
theorem formatFB_eq_ok_iff {f : Nat → Instr} :
    formatFB imm f = .ok i ↔ ∃ ndigi, ndigi < 16 ∧ imm = BitVec.setWidth 24 (BitVec.ofNat 4 ndigi) ∧ f ndigi = i := by
  refine (reserved_eq_ok_iff 4 20 rfl fun v => f v.toNat).trans ⟨?_, ?_⟩
  · rintro ⟨v, rfl, rfl⟩
    exact ⟨v.toNat, v.isLt, by rw [BitVec.ofNat_toNat, BitVec.setWidth_eq], rfl⟩
  · rintro ⟨ndigi, hlt, rfl, rfl⟩
    exact ⟨BitVec.ofNat 4 ndigi, rfl, by rw [BitVec.toNat_ofNat, Nat.mod_eq_of_lt hlt]⟩

end

/-! ### The decoder -/

/-- The word of a well-formed command decodes to it. -/
theorem decode_encode {i : Instr} (h : i.wellFormed = true) : decode (encode i) = .ok i := by
  rw [decode, opcField_encode, immField_encode]
  cases i with
  | crcByte v | lutRead v => exact formatB8_eq_ok_iff.mpr ⟨v, rfl, rfl⟩
  | stuffBit b | nrziSet b | nrziBit b => exact formatB1_eq_ok_iff.mpr ⟨b, rfl, rfl⟩
  | addrEnc ssid last => exact formatAE_eq_ok_iff.mpr ⟨ssid, last, of_decide_eq_true h, rfl, rfl⟩
  | frameBuild ndigi => exact formatFB_eq_ok_iff.mpr ⟨ndigi, of_decide_eq_true h, rfl, rfl⟩
  | _ => exact formatZ_eq_ok_iff.mpr ⟨rfl, rfl⟩

/-- A word decodes only to a well-formed command, whose word it is. -/
theorem wellFormed_and_encode_of_decode {w : Word} {i : Instr} : decode w = .ok i → i.wellFormed = true ∧ encode i = w := by
  rw [encode_eq_iff]
  fun_cases decode w <;> intro h
  -- Format B8.
  case case3 hopc | case16 hopc =>
    obtain ⟨v, himm, rfl⟩ := formatB8_eq_ok_iff.mp h
    exact ⟨rfl, hopc, himm⟩
  -- Format B1.
  case case9 hopc | case12 hopc | case13 hopc =>
    obtain ⟨b, himm, rfl⟩ := formatB1_eq_ok_iff.mp h
    exact ⟨rfl, hopc, himm⟩
  -- Format AE.
  case case6 hopc =>
    obtain ⟨ssid, last, hlt, himm, rfl⟩ := formatAE_eq_ok_iff.mp h
    exact ⟨decide_eq_true hlt, hopc, himm⟩
  -- Format FB.
  case case7 hopc =>
    obtain ⟨ndigi, hlt, himm, rfl⟩ := formatFB_eq_ok_iff.mp h
    exact ⟨decide_eq_true hlt, hopc, himm⟩
  -- No assigned opcode.
  case case19 => cases h
  -- Format Z.
  all_goals
    obtain ⟨himm, rfl⟩ := formatZ_eq_ok_iff.mp h
    exact ⟨rfl, ‹_›, himm⟩

end Sys2Proof

namespace Sys2Proof.Laws.TableRow

/-- The word of every command is one its own row of the opcode table calls legal. -/
theorem statement (i : Instr) : Statement i := by
  cases i
  exacts [nop, crcInit, crcByte _, crcFinal, crcBuf, addrEnc _ _, frameBuild _, stuffReset, stuffBit _, stuffBuf, frameWrap,
    nrziSet _, nrziBit _, nrziBuf, lineEncode, lutRead _, synthPrep, synth]

end Sys2Proof.Laws.TableRow

namespace Sys2Proof.Machine

/-- Settles O6, one direction by the command's constructors, the other by the rows of the opcode map. -/
theorem decodeEncodeRoundTrip : Obligations.DecodeEncodeRoundTrip :=
  ⟨fun _ => decode_encode, fun _ _ => wellFormed_and_encode_of_decode⟩

/-! ### Illegal words -/

/-- A word has an illegal opcode exactly when the opcode map does not assign its OPC (30_encoding.md R107). -/
theorem decode_eq_opcode_error_iff {w : Word} : decode w = .error .opcode ↔ opcField w ∉ assignedOpcodes := by
  fun_cases decode w
  -- No assigned opcode; the other cases are the rows of the opcode map.
  case case19 => simp_all [assignedOpcodes]
  all_goals exact iff_of_false (reserved_ne_opcode_error _) (by simp [assignedOpcodes, *])

/-- The reserved bits of a command's opcode are the IMM bits that its row of the opcode table fixes, and it fixes them to 0. -/
theorem row_reservedBits (i : Instr) :
    reservedBits (opcodeOf i) = (Laws.TableRow.row i).1 &&& 0x00FFFFFF ∧ (Laws.TableRow.row i).2 &&& 0x00FFFFFF = 0 := by
  cases i <;> dsimp only [Laws.TableRow.row, opcodeOf] <;> decide

/-- The reserved bits of a command's word are 0 (30_encoding.md R103). -/
theorem encode_and_reservedBits (i : Instr) : encode i &&& reservedBits (opcodeOf i) = 0 := by
  obtain ⟨hmask, hmatch⟩ := row_reservedBits i
  rw [hmask, ← BitVec.and_assoc, Laws.TableRow.statement i, hmatch]

/-- A word with an assigned opcode and a 1 in a reserved bit is illegal with ERR_FIELD (30_encoding.md R108): its opcode is no
error, and no command has it as its word. -/
theorem decode_eq_field_error {w : Word} (hopc : opcField w ∈ assignedOpcodes) (hres : w &&& reservedBits (opcField w) ≠ 0) :
    decode w = .error .field := by
  cases hd : decode w with
  | error e =>
    cases e with
    | opcode => exact absurd hopc (decode_eq_opcode_error_iff.mp hd)
    | field => rfl
  | ok i =>
    obtain ⟨-, rfl⟩ := wellFormed_and_encode_of_decode hd
    rw [opcField_encode] at hres
    exact absurd (encode_and_reservedBits i) hres

/-! ### Illegal words on the ENGINE's turn -/

section
variable {s : State} {c : Latched}

/-- With a command latched, the ENGINE's turn is the completion of its word (40_common.md R135). -/
theorem step_of_engine (hturn : s.nextEvent = .engine) (hlatched : s.latched = some c) : step s = complete c.word s.popEvent := by
  simp [step, hturn, runEvent, engineTurn, hlatched]

/-- A word that is no command completes with its error code and no other effect (30_encoding.md R107, R108). -/
theorem step_of_decode_error (hturn : s.nextEvent = .engine) (hlatched : s.latched = some c) {e : DecodeError}
    (hd : decode c.word = .error e) : step s = .next (s.popEvent.fail (decodeErrCode e)) := by
  rw [step_of_engine hturn hlatched, complete, hd]

end

/-- The ranges of 30_encoding.md R107 hold no assigned opcode. -/
theorem not_mem_assignedOpcodes (opc : BitVec 8)
    (h : 0x05 ≤ opc.toNat ∧ opc.toNat ≤ 0x07 ∨ 0x0A ≤ opc.toNat ∧ opc.toNat ≤ 0x0F ∨ 0x18 ≤ opc.toNat ∧ opc.toNat ≤ 0x1F ∨
      0x23 ≤ opc.toNat) : opc ∉ assignedOpcodes := by
  revert opc
  decide

/-- Settles O7: an OPC in these ranges is not assigned, so the word does not decode. -/
theorem unassignedOpcodeFails : Obligations.UnassignedOpcodeFails :=
  fun _ _ hturn hlatched hopc =>
    step_of_decode_error hturn hlatched (decode_eq_opcode_error_iff.mpr (not_mem_assignedOpcodes _ hopc))

/-- Settles O8: the word has an assigned opcode and is no command's word, so it is in error before any command runs. -/
theorem reservedBitFails : Obligations.ReservedBitFails :=
  fun _ _ hturn hlatched hopc hres => step_of_decode_error hturn hlatched (decode_eq_field_error hopc hres)

/-! ### Command lines -/

/-- A command line has events exactly when its operands fit: the CMD write of its word, then `poll` (30_encoding.md R110, R111). -/
theorem events_cmd (i : Instr) :
    (HostOp.cmd i).events = if i.wellFormed then some (.write 0x00 4 (encode i) :: pollEvents) else none := by
  cases h : i.wellFormed <;> simp [HostOp.events, assembledWord, h]

/-- Settles O9: the words and lines as written out, and each command line's events. -/
theorem wordsOfTheOpcodeMap : Obligations.WordsOfTheOpcodeMap := by
  unfold Obligations.WordsOfTheOpcodeMap
  refine ⟨rfl, rfl, rfl, rfl, rfl, rfl, rfl, rfl, rfl, rfl, rfl, rfl, rfl, rfl, rfl, rfl, rfl, fun i h => ?_, fun i h => ?_⟩
  · rw [events_cmd, if_pos h, pollEvents]
  · simp [events_cmd, h]

end Sys2Proof.Machine
end

section
/-!
PROOFS, what every command shares. The checks in their order (40_common.md R136), what a completion leaves as it was (R137, R138),
and the capacity check of the commands that store a sequence (R136, step 7). Each is a fact about the shared order of checks, which
`exec_eq_command` and `exec_next` carry to every command.
-/

namespace Sys2Proof.Machine

/-! ### The order of checks -/

section
variable {size : Nat} {ins outs : List Region}

/-- The range check comes first: a region out of range is ERR_RANGE, whether or not regions overlap. -/
theorem regionError_of_not_inRange (h : ∃ r ∈ ins ++ outs, inRange size r = false) :
    regionError size ins outs = some .range := by
  obtain ⟨r, hr, hout⟩ := h
  exact if_pos (List.any_eq_true.mpr ⟨r, hr, by simp [hout]⟩)

theorem regionError_of_overlap (hin : ∀ r ∈ ins ++ outs, inRange size r = true)
    (h : ∃ r ∈ ins, ∃ q ∈ outs, overlap r q = true) : regionError size ins outs = some .overlap := by
  have hrange : ¬ ((ins ++ outs).any fun r => !inRange size r) = true := by
    rw [List.any_eq_true]
    rintro ⟨r, hr, hout⟩
    simp [hin r hr] at hout
  rw [regionError, if_neg hrange, if_pos]
  simpa only [List.any_eq_true] using h

end

/-- Settles O22: every command is the shared order of checks, so each clause is the first of its checks that does not pass. -/
theorem checksRunInOrder : Obligations.ChecksRunInOrder := by
  unfold Obligations.ChecksRunInOrder
  intro i s
  obtain ⟨α, input, body, hexec, hinput⟩ := exec_eq_command i s
  dsimp only
  rw [hexec]
  refine ⟨fun code => command_of_check, fun hchecks =>
    ⟨fun hout => command_of_region hchecks (regionError_of_not_inRange hout), fun hin =>
      ⟨fun hov => command_of_region hchecks (regionError_of_overlap hin hov), fun hapart hunwritten => ?_⟩⟩⟩
  rw [hinput.mpr hunwritten]
  exact command_of_unwritten hchecks (regionError_eq_none_iff.mpr ⟨hin, hapart⟩)

/-! ### The frame of a completion -/

section
variable {w : Word} {s t u : State} {i : Instr}

/-- A command word completes as a word that is no command, or as a command (40_common.md R135, R136). -/
theorem complete_next (h : complete w s = .next t) :
    (∃ e, t = s.fail (decodeErrCode e)) ∨ ∃ i, exec i s = .next t := by
  unfold complete at h
  split at h
  · cases h
    exact .inl ⟨_, rfl⟩
  · exact .inr ⟨_, h⟩

/-- A completion with a code other than 0 is `State.fail`, which has no effect but the flags (40_common.md R137). -/
theorem Completion.eq_fail_of_err (c : Completion s i t) (herr : t.err ≠ .none) : t = s.fail t.err := by
  cases c with
  | failed code => rfl
  | succeeded effect => exact absurd rfl herr

theorem Completion.latched_eq_none (c : Completion s i t) : t.latched = none := by
  cases c <;> rfl

end

/-- Settles O23: a word that is no command, and a command that reports an error, complete through `State.fail`. -/
theorem noEffectOnError : Obligations.NoEffectOnError := by
  unfold Obligations.NoEffectOnError
  intro w s t h herr
  obtain ⟨e, rfl⟩ | ⟨i, hexec⟩ := complete_next h
  · rfl
  · exact (exec_next hexec).eq_fail_of_err herr

/-! ### ERRS on success

`exec_next` does not say that the code of a failed command is other than 0. Every check has such a code, so a completion with code
0 is that of a body that answered a state, and ERRS is as the body left it. -/

section
variable {α : Type} {s t : State} {i : Instr} {checks : List (Bool × ErrCode)} {ins outs : List Region} {input : Option α}
  {body : α → Except ErrCode State} {code : ErrCode}

theorem exists_mem_of_firstFailing_eq_some {l : List (Bool × ErrCode)} (h : firstFailing l = some code) :
    ∃ x ∈ l, x.2 = code := by
  induction l with
  | nil => cases h
  | cons x rest ih =>
    obtain ⟨bad, c⟩ := x
    rw [firstFailing_cons] at h
    split at h
    · exact ⟨_, List.mem_cons_self, Option.some.inj h⟩
    · obtain ⟨y, hy, hcode⟩ := ih h
      exact ⟨y, List.mem_cons_of_mem _ hy, hcode⟩

theorem firstFailing_ne_none_code {l : List (Bool × ErrCode)} (hl : ∀ x ∈ l, x.2 ≠ .none) :
    firstFailing l ≠ some .none := by
  intro h
  obtain ⟨x, hx, hcode⟩ := exists_mem_of_firstFailing_eq_some h
  exact hl x hx hcode

theorem regionError_ne_none_code (size : Nat) : regionError size ins outs ≠ some .none := by
  unfold regionError
  split
  · simp
  · split <;> simp

/-- The first illegal descriptor is reported with one of the two codes of 43_frame_builder.md R194. -/
theorem tableError_ne_none_code (ds : List Descriptor) : tableError ds ≠ some .none := by
  induction ds with
  | nil => simp [tableError]
  | cons d ds ih =>
    have hd : descriptorError d ≠ some .none := firstFailing_ne_none_code (by simp)
    rw [tableError]
    split
    next code h => rwa [h] at hd
    next => exact ih

/-- What the body of a command answers to an input: an error with a code other than 0, or a state with the ERRS it found. -/
def KeepsErrs (s : State) (answer : Except ErrCode State) : Prop :=
  answer ≠ .error .none ∧ ∀ u, answer = .ok u → u.errs = s.errs

theorem keepsErrs_ok {u : State} (h : u.errs = s.errs) : KeepsErrs s (.ok u) :=
  ⟨nofun, fun _ hu => by cases hu; exact h⟩

theorem keepsErrs_error (h : code ≠ .none) : KeepsErrs s (.error code) :=
  ⟨fun hcode => h (by cases hcode; rfl), nofun⟩

theorem keepsErrs_withCapacity {n cap : Nat} {u : State} (h : u.errs = s.errs) : KeepsErrs s (withCapacity n cap u) := by
  unfold withCapacity
  split
  · exact keepsErrs_ok h
  · exact keepsErrs_error nofun

theorem command_keeps_errs (h : command s checks ins outs input body = .next t) (herr : t.err = .none)
    (hchecks : ∀ x ∈ checks, x.2 ≠ .none) (hbody : ∀ x, KeepsErrs s (body x)) : t.errs = s.errs := by
  unfold command at h
  split at h
  next code hcode =>
    cases h
    exact absurd (hcode.trans (congrArg some herr)) (firstFailing_ne_none_code hchecks)
  next =>
    split at h
    next code hcode =>
      cases h
      exact absurd (hcode.trans (congrArg some herr)) (regionError_ne_none_code _)
    next =>
      split at h
      next => cases h
      next x =>
        split at h
        next code hcode =>
          cases h
          exact absurd (hcode.trans (congrArg Except.error herr)) (hbody x).1
        next u hu =>
          cases h
          exact (hbody x).2 u hu

/-- A command that completes with code 0 leaves ERRS as it was (10_state.md R26, 40_common.md R135). -/
theorem exec_keeps_errs (h : exec i s = .next t) (herr : t.err = .none) : t.errs = s.errs := by
  cases i with
  | nop | crcInit | crcByte | crcFinal | stuffReset | stuffBit | nrziSet | nrziBit | lutRead =>
    cases h
    rfl
  | crcBuf =>
    dsimp only [exec, execCrcBuf] at h
    exact command_keeps_errs h herr (by simp) fun _ => keepsErrs_ok rfl
  | addrEnc ssid last =>
    refine command_keeps_errs h herr (by simp) fun call => ?_
    split
    · exact keepsErrs_ok rfl
    · exact keepsErrs_error nofun
  | frameBuild ndigi =>
    dsimp only [exec, execFrameBuild] at h
    refine command_keeps_errs h herr (by simp) fun input => ?_
    split
    next code hcode => exact keepsErrs_error fun hnone => tableError_ne_none_code _ (hnone ▸ hcode)
    next => exact keepsErrs_ok rfl
  | stuffBuf | nrziBuf =>
    dsimp only [exec, execStuffBuf, execNrziBuf] at h
    exact command_keeps_errs h herr (by simp) fun _ => keepsErrs_withCapacity rfl
  | frameWrap | lineEncode => exact command_keeps_errs h herr (by simp [framingChecks]) fun _ => keepsErrs_withCapacity rfl
  | synthPrep =>
    dsimp only [exec, execSynthPrep] at h
    exact command_keeps_errs h herr (by simp [synthChecks]) fun _ => keepsErrs_ok rfl
  | synth => exact command_keeps_errs h herr (by simp [synthChecks]) fun _ => keepsErrs_withCapacity rfl

end

/-- Settles O24: `State.fail` and every completion of a command leave the host's side, and only a code other than 0 sets ERRS. -/
theorem completionFrame : Obligations.CompletionFrame := by
  unfold Obligations.CompletionFrame
  intro w s t h
  obtain ⟨e, rfl⟩ | ⟨i, hexec⟩ := complete_next h
  · refine ⟨⟨rfl, rfl, rfl, rfl, rfl, rfl, rfl⟩, rfl, rfl, fun herr => ?_⟩
    cases e <;> cases herr
  · have completion := exec_next hexec
    have hlatched := completion.latched_eq_none
    exact ⟨completion.keeps_hostSide, hlatched, t.busy_eq_false_iff.mpr hlatched, exec_keeps_errs hexec⟩

/-! ### The capacity check -/

/-- With every earlier check passed and its input written, a command whose output exceeds its capacity fails (40_common.md R136,
step 7). -/
theorem command_of_capacity {α : Type} {s : State} {checks : List (Bool × ErrCode)} {ins outs : List Region} {input : Option α}
    {x : α} {n : α → Nat} {cap : Nat} {u : α → State} (passed : Passed s checks ins outs input x) (hcap : cap < n x) :
    (command s checks ins outs input fun x => withCapacity (n x) cap (u x)) = .next (s.fail .capacity) := by
  rw [passed.input_eq]
  exact command_of_body_error passed.checks_pass passed.regions_pass (withCapacity_eq_error_iff.mpr ⟨hcap, rfl⟩)

/-- Settles O52: each of the five commands passed its checks, so its capacity check decides. -/
theorem capacityErrors : Obligations.CapacityErrors := by
  unfold Obligations.CapacityErrors
  intro i s
  dsimp only
  intro hchecks hin hapart
  have hregions := regionError_eq_none_iff.mpr ⟨hin, hapart⟩
  refine ⟨fun bits hbits => ⟨?_, ?_, ?_, ?_⟩, fun frame hframe => ?_⟩ <;> rintro rfl hcap
  · exact command_of_capacity ⟨hchecks, hregions, hbits⟩ hcap
  · exact command_of_capacity ⟨hchecks, hregions, hbits⟩ hcap
  · rw [← Memory.readBits_length hbits, ← nrzi_length s.units.lineState bits] at hcap
    exact command_of_capacity ⟨hchecks, hregions, hbits⟩ hcap
  · rw [checksOf_synth] at hchecks
    exact command_of_capacity ⟨hchecks, hregions, hbits⟩ hcap
  · exact command_of_capacity ⟨hchecks, hregions, hframe⟩ hcap

end Sys2Proof.Machine
end

section
/-!
PROOFS, buffers. Regions (40_common.md R139), and the layout of bit sequences and samples in bytes (R140 to R142): one lemma says
where an element of an unpacked or packed sequence stands, and the read-back laws follow from it.
-/

namespace Sys2Proof.Machine

/-! ### Regions -/

theorem overlap_eq_true_iff (r q : Region) :
    overlap r q = true ↔ 0 < r.len ∧ 0 < q.len ∧ r.start < q.start + q.len ∧ q.start < r.start + r.len := by
  simp [overlap, and_assoc]

/-- Two regions overlap exactly when they share an address: the larger of their starts is one. -/
theorem overlap_eq_true_iff_shared (r q : Region) :
    overlap r q = true ↔ ∃ a, (r.start ≤ a ∧ a < r.start + r.len) ∧ q.start ≤ a ∧ a < q.start + q.len := by
  rw [overlap_eq_true_iff]
  constructor
  · intro h
    exact ⟨max r.start q.start, by omega, by omega⟩
  · rintro ⟨a, hr, hq⟩
    omega

/-- Settles O28: the definitions of R139 as propositions, and an empty region holds no address. -/
theorem regionRules : Obligations.RegionRules := by
  unfold Obligations.RegionRules
  refine ⟨inRange_eq_true_iff, overlap_eq_true_iff, overlap_eq_true_iff_shared, fun size start q => ⟨?_, ?_, ?_⟩,
    fun m start => ⟨rfl, rfl⟩⟩
  · exact (inRange_eq_true_iff _ _).mpr (.inl rfl)
  · simp [overlap]
  · simp [overlap]

/-! ### Bits of bytes -/

theorem bitsOfByte_getElem? (b : Byte) {t : Nat} (ht : t < 8) : (bitsOfByte b)[t]? = some (b.getLsbD t) := by
  interval_cases t <;> rfl

/-- Bit `k` of a byte sequence is bit `k mod 8` of byte `floor(k / 8)` (40_common.md R140). -/
theorem bitsOfBytes_getElem? (l : List Byte) (k : Nat) :
    (bitsOfBytes l)[k]? = l[k / 8]?.map fun b => b.getLsbD (k % 8) := by
  induction l generalizing k with
  | nil => simp [bitsOfBytes]
  | cons b t ih =>
    rw [bitsOfBytes]
    by_cases hk : k < 8
    · rw [List.getElem?_append_left (by simpa using hk), bitsOfByte_getElem? b hk, Nat.div_eq_of_lt hk, Nat.mod_eq_of_lt hk]
      rfl
    · rw [List.getElem?_append_right (by simpa using hk), bitsOfByte_length, ih (k - 8),
        show k / 8 = (k - 8) / 8 + 1 by omega, show k % 8 = (k - 8) % 8 by omega]
      rfl

/-- Settles O29: the bits come from exactly the bytes of the region, in the order of `bitsOfBytes`. -/
theorem readBitsLayout : Obligations.ReadBitsLayout := by
  unfold Obligations.ReadBitsLayout
  refine fun m b n => ⟨?_, fun bits h => ⟨Memory.readBits_length h, fun k hk => ?_⟩⟩
  · rw [← Option.ne_none_iff_exists']
    simp [Memory.readBits, Memory.readBytes_eq_none_iff]
  · obtain ⟨l, hl, rfl⟩ := Option.map_eq_some_iff.mp h
    obtain ⟨hlen, hread⟩ := (Memory.readBytes_eq_some_iff _ _ _ _).mp hl
    have hbyte : k / 8 < l.length := by
      unfold bytesForBits at hlen
      omega
    refine ⟨l[k / 8], hread _ hbyte, ?_⟩
    rw [List.getElem?_take_of_lt hk, bitsOfBytes_getElem?, List.getElem?_eq_getElem hbyte]
    rfl

/-! ### Packed bits -/

/-- The binary digits of `valueOfBits` are the bits, and 0 beyond their end. -/
theorem testBit_valueOfBits (s : Bits) (t : Nat) : (valueOfBits s).testBit t = s[t]?.getD false := by
  induction s generalizing t with
  | nil => simp [valueOfBits]
  | cons b s ih =>
    rw [valueOfBits, Nat.add_comm]
    cases t with
    | zero => cases b <;> simp [Nat.testBit_zero]
    | succ t =>
      rw [Nat.testBit_succ, show (2 * valueOfBits s + b.toNat) / 2 = valueOfBits s by have := b.toNat_le; omega, ih]
      rfl

theorem packBytes_getElem? (s : Bits) {n j : Nat} (hj : j < n) :
    (packBytes n s)[j]? = some (BitVec.ofNat 8 (valueOfBits ((s.drop (8 * j)).take 8))) := by
  induction n generalizing s j with
  | zero => omega
  | succ n ih =>
    cases j with
    | zero => simp [packBytes]
    | succ j =>
      rw [packBytes, List.getElem?_cons_succ, ih _ (by omega), List.drop_drop, show 8 + 8 * j = 8 * (j + 1) by omega]

/-- Bit `t` of byte `j` of a packed sequence is its bit `8j + t`, and 0 beyond its end (40_common.md R141). -/
theorem exists_packBits_getElem? (s : Bits) {j t : Nat} (hj : j < bytesForBits s.length) (ht : t < 8) :
    ∃ x, (packBits s)[j]? = some x ∧ x.getLsbD t = s[8 * j + t]?.getD false := by
  refine ⟨_, packBytes_getElem? s hj, ?_⟩
  rw [BitVec.getLsbD_ofNat, testBit_valueOfBits, List.getElem?_take_of_lt ht, List.getElem?_drop]
  simp [ht]

/-- Unpacking a packed sequence gives it back, followed by the zeros of its last byte. -/
theorem take_bitsOfBytes_packBits (s : Bits) : (bitsOfBytes (packBits s)).take s.length = s := by
  apply List.ext_getElem?
  intro k
  by_cases hk : k < s.length
  · have hbyte : k / 8 < bytesForBits s.length := by
      unfold bytesForBits
      omega
    obtain ⟨x, hx, hbit⟩ := exists_packBits_getElem? s hbyte (Nat.mod_lt k (by decide))
    rw [List.getElem?_take_of_lt hk, bitsOfBytes_getElem?, hx, Option.map_some, hbit, Nat.div_add_mod,
      List.getElem?_eq_getElem hk]
    rfl
  · rw [List.getElem?_eq_none (by simp; omega), List.getElem?_eq_none (by omega)]

/-- A bit sequence that was just written reads as written. -/
theorem Memory.readBits_writeBytes_packBits (m : Memory) (b : Nat) (s : Bits) :
    (m.writeBytes b (packBits s)).readBits b s.length = some s := by
  rw [Memory.readBits, ← packBits_length, Memory.readBytes_writeBytes, Option.map_some, take_bitsOfBytes_packBits]

/-- A byte of a sequence that was just written reads as written. -/
theorem Memory.read_writeBytes_of_getElem? (m : Memory) (a : Nat) {l : List Byte} {j : Nat} {x : Byte} (h : l[j]? = some x) :
    (m.writeBytes a l).read (a + j) = some x := by
  obtain ⟨hj, rfl⟩ := List.getElem?_eq_some_iff.mp h
  exact Memory.read_writeBytes_inside m a l j hj

/-- Settles O30: each stored byte reads back, and so do the bits packed in them. -/
theorem writeBitsLayout : Obligations.WriteBitsLayout := by
  unfold Obligations.WriteBitsLayout
  exact fun s => ⟨packBits_length s, fun j t hj ht => exists_packBits_getElem? s hj ht, rfl, fun m b =>
    ⟨fun j x hx => m.read_writeBytes_of_getElem? b hx, rfl, m.readBits_writeBytes_packBits b s⟩⟩

/-! ### Samples -/

/-- Sample `k` stands at bytes `2k` (low) and `2k + 1` (high) (40_common.md R142). -/
theorem packSamples_getElem? {xs : List Half} {k : Nat} {x : Half} (h : xs[k]? = some x) :
    (packSamples xs)[2 * k]? = some (x.extractLsb' 0 8) ∧ (packSamples xs)[2 * k + 1]? = some (x.extractLsb' 8 8) := by
  induction xs generalizing k with
  | nil => simp at h
  | cons y ys ih =>
    cases k with
    | zero =>
      cases h
      exact ⟨rfl, rfl⟩
    | succ k => exact ih h

/-- The two bytes of a sample, low byte first, are its value (20_memory.md R78). -/
theorem littleEndian_sample (x : Half) : littleEndian [x.extractLsb' 0 8, x.extractLsb' 8 8] = x.toNat := by
  simp only [littleEndian, BitVec.extractLsb'_toNat, Nat.shiftRight_eq_div_pow]
  omega

/-- Settles O31: the two bytes of a sample stand where they were stored, and together they are the sample. -/
theorem sampleLayout : Obligations.SampleLayout := by
  unfold Obligations.SampleLayout
  refine ⟨packSamples_length, rfl, fun m b xs k x h => ⟨_, ?_, littleEndian_sample x⟩⟩
  obtain ⟨hlow, hhigh⟩ := packSamples_getElem? h
  have hlow := m.read_writeBytes_of_getElem? b hlow
  have hhigh := m.read_writeBytes_of_getElem? b hhigh
  rw [← Nat.add_assoc] at hhigh
  simp [Memory.readBytes, hlow, hhigh]

end Sys2Proof.Machine
end

section
/-!
PROOFS, issue, the ENGINE's turn, and the commands that read no memory: NOP and the register commands of the CRC engine.
-/

namespace Sys2Proof.Machine

/-- Settles O10: the ENGINE's turn completes the latched word, and a word that decodes completes as its command. -/
theorem stepRunsDecodedCommand : Obligations.StepRunsDecodedCommand := by
  unfold Obligations.StepRunsDecodedCommand
  intro s c i hturn hlatched hd _
  rw [step_of_engine hturn hlatched, complete, hd]
  rfl

/-- Settles O11: an idle write of CMD is the issue of its word. -/
theorem cmdWriteIssues : Obligations.CmdWriteIssues := by
  unfold Obligations.CmdWriteIssues
  intro s w rest h hidle
  rw [step_write_offsetOf (r := .cmd) h, writeReg, whenIdle, busy_withSchedule, hidle]
  rfl

/-- While BUSY = 1 a write of CMD, A0 to A3 or a configuration register only sets OVR (10_state.md R34, 40_common.md R134). -/
theorem writeReg_of_busy {s : State} {r : Reg} {v : Word} (hbusy : s.busy = true) (hr : r ∈ .cmd :: storingRegs) :
    writeReg r v s = s.setOvr :=
  (by simp [storingRegs, writeReg, whenIdle, hbusy] : ∀ r ∈ .cmd :: storingRegs, writeReg r v s = s.setOvr) r hr

/-- Settles O12: the offsets are those of the registers that are written only while idle. -/
theorem writesWhileBusyAreIgnored : Obligations.WritesWhileBusyAreIgnored := by
  unfold Obligations.WritesWhileBusyAreIgnored
  intro s offset v rest h hbusy hmem
  obtain ⟨r, hr, rfl⟩ : ∃ r ∈ .cmd :: storingRegs, offsetOf r = offset := List.mem_map.mp hmem
  exact (step_write_offsetOf h).trans (congrArg _ (writeReg_of_busy hbusy hr))

/-- The corner values of 42_crc.md R179. -/
theorem crcStep_corners :
    crcStep 0x0000 0x00 = 0x0000 ∧ crcStep 0xFFFF 0xFF = 0x00FF ∧ crcStep 0x0000 0x80 = 0x8408 ∧
      crcStep 0xFFFF 0x31 = 0x2F8D := by
  decide

/-- Settles O32: none of the four commands has a check, so each completes with its effects as its rule writes them. -/
theorem nopAndCrcRegisterCommandsComplete : Obligations.NopAndCrcRegisterCommandsComplete :=
  ⟨fun _ => ⟨rfl, rfl, fun _ => rfl, rfl⟩, fun _ _ => rfl, crcStep_corners⟩

end Sys2Proof.Machine
end

section
/-!
PROOFS, the address encoder. When ADDR_ENC and FRAME_BUILD pass the checks before they look at their input, what their content
checks then decide, and the bytes of an encoded address (41_address_encoder.md, 43_frame_builder.md R194).
-/

namespace Sys2Proof.Machine

/-! ### A command whose checks passed -/

section
variable {α : Type} {s t : State} {checks : List (Bool × ErrCode)} {ins outs : List Region} {input : Option α} {x : α}
  {body : α → Except ErrCode State}

/-- Past its checks a command completes with the effects its body answers (40_common.md R135, R138). -/
theorem Passed.command_eq_succeed (passed : Passed s checks ins outs input x) (hb : body x = .ok t) :
    command s checks ins outs input body = .next t.succeed := by
  rw [passed.input_eq]
  exact command_of_ok passed.checks_pass passed.regions_pass hb

/-- Past its checks a command fails with the content or capacity error its body answers (40_common.md R136, R137). -/
theorem Passed.command_eq_fail (passed : Passed s checks ins outs input x) {code : ErrCode} (hb : body x = .error code) :
    command s checks ins outs input body = .next (s.fail code) := by
  rw [passed.input_eq]
  exact command_of_body_error passed.checks_pass passed.regions_pass hb

end

/-- ADDR_ENC passed its checks and read `call` as its callsign (41_address_encoder.md R165). -/
abbrev AddrEncPassed (s : State) (ssid : Nat) (last : Bool) (call : List Byte) : Prop :=
  Passed s (checksOf (.addrEnc ssid last) s.cmdArgs s.cmdCfg) (inputsOf (.addrEnc ssid last) s.cmdArgs)
    (outputsOf (.addrEnc ssid last) s.cmdArgs) (s.lmem.readBytes s.cmdArgs.n0 s.cmdArgs.n1) call

section
variable {s : State} {ssid : Nat} {last : Bool} {call : List Byte}

/-- ADDR_ENC passes its checks under the conditions of 41_address_encoder.md R165. -/
theorem addrEnc_passed (hlen : s.cmdArgs.n1 ≤ 6) (hssid : ssid ≤ 15)
    (hin : s.cmdArgs.n1 = 0 ∨ s.cmdArgs.n0 + s.cmdArgs.n1 ≤ s.lmemSize) (hout : s.cmdArgs.n2 + 7 ≤ s.lmemSize)
    (hapart : overlap (byteRegion s.cmdArgs.n0 s.cmdArgs.n1) (byteRegion s.cmdArgs.n2 7) = false)
    (hcall : s.lmem.readBytes s.cmdArgs.n0 s.cmdArgs.n1 = some call) :
    AddrEncPassed s ssid last call where
  checks_pass := by
    rw [firstFailing_eq_none_iff]
    simp [checksOf, hlen, hssid]
  regions_pass := by
    rw [regionError_eq_none_iff]
    simpa [inputsOf, outputsOf, inRange_eq_true_iff, byteRegion] using ⟨⟨hin, hout⟩, hapart⟩
  input_eq := hcall

theorem exec_addrEnc_of_printable (passed : AddrEncPassed s ssid last call)
    (hprint : ∀ c ∈ call, printable c = true) :
    exec (.addrEnc ssid last) s = .next ((s.store s.cmdArgs.n2 (encodeAddress call ssid last)).setResult 7).succeed :=
  passed.command_eq_succeed (if_pos (List.all_eq_true.mpr hprint))

theorem exec_addrEnc_of_not_printable (passed : AddrEncPassed s ssid last call)
    (hbad : ∃ c ∈ call, printable c = false) : exec (.addrEnc ssid last) s = .next (s.fail .callChar) :=
  passed.command_eq_fail (if_neg (by simpa using hbad))

end

/-- FRAME_BUILD passed its checks and read `table` and `payload` (43_frame_builder.md R194). -/
abbrev FrameBuildPassed (s : State) (ndigi : Nat) (table payload : List Byte) : Prop :=
  Passed s (checksOf (.frameBuild ndigi) s.cmdArgs s.cmdCfg) (inputsOf (.frameBuild ndigi) s.cmdArgs)
    (outputsOf (.frameBuild ndigi) s.cmdArgs)
    (s.lmem.readTwo s.cmdArgs.n0 (8 * addressCount ndigi) s.cmdArgs.n1 s.cmdArgs.n2) (table, payload)

section
variable {s : State} {ndigi : Nat} {table payload : List Byte}

/-- FRAME_BUILD passes its region checks, the only checks it has, under the conditions of 43_frame_builder.md R194. -/
theorem frameBuild_passed (htable : s.cmdArgs.n0 + 8 * addressCount ndigi ≤ s.lmemSize)
    (hpayload : s.cmdArgs.n2 = 0 ∨ s.cmdArgs.n1 + s.cmdArgs.n2 ≤ s.lmemSize)
    (hout : s.cmdArgs.n3 + frameLength ndigi s.cmdArgs.n2 ≤ s.lmemSize)
    (hapart : overlap (byteRegion s.cmdArgs.n0 (8 * addressCount ndigi))
      (byteRegion s.cmdArgs.n3 (frameLength ndigi s.cmdArgs.n2)) = false)
    (hapart' : overlap (byteRegion s.cmdArgs.n1 s.cmdArgs.n2)
      (byteRegion s.cmdArgs.n3 (frameLength ndigi s.cmdArgs.n2)) = false)
    (hread : s.lmem.readBytes s.cmdArgs.n0 (8 * addressCount ndigi) = some table)
    (hread' : s.lmem.readBytes s.cmdArgs.n1 s.cmdArgs.n2 = some payload) :
    FrameBuildPassed s ndigi table payload where
  checks_pass := rfl
  regions_pass := by
    rw [regionError_eq_none_iff]
    simp only [inputsOf, outputsOf, List.cons_append, List.nil_append, List.forall_mem_cons, List.not_mem_nil,
      false_implies, implies_true, and_true, inRange_eq_true_iff]
    exact ⟨⟨.inr htable, hpayload, .inr hout⟩, hapart, hapart'⟩
  input_eq := Memory.readTwo_eq_some_iff.mpr ⟨hread, hread'⟩

theorem exec_frameBuild_of_tableError (passed : FrameBuildPassed s ndigi table payload) {code : ErrCode}
    (hbad : tableError (descriptors (addressCount ndigi) table) = some code) :
    exec (.frameBuild ndigi) s = .next (s.fail code) :=
  passed.command_eq_fail (by simp only [hbad])

end

/-! ### The content checks -/

theorem printable_eq_true_iff (c : Byte) : printable c = true ↔ 0x20 ≤ c.toNat ∧ c.toNat ≤ 0x7E := by
  simp [printable, BitVec.le_def]

theorem printable_eq_false_iff (c : Byte) : printable c = false ↔ c.toNat < 0x20 ∨ 0x7E < c.toNat := by
  rw [← Bool.not_eq_true, printable_eq_true_iff]
  omega

section
variable {d : Descriptor}

theorem descriptorError_eq_none (hcall : ∀ c ∈ d.call, printable c = true) (hssid : d.ssid.toNat ≤ 15) :
    descriptorError d = none := by
  rw [descriptorError, firstFailing_eq_none_iff]
  simpa [BitVec.lt_def] using ⟨hcall, hssid⟩

theorem descriptorError_eq_callChar (hcall : ∃ c ∈ d.call, printable c = false) : descriptorError d = some .callChar :=
  if_pos (by simpa using hcall)

theorem descriptorError_eq_ssid (hcall : ∀ c ∈ d.call, printable c = true) (hssid : 15 < d.ssid.toNat) :
    descriptorError d = some .ssid := by
  have hgood : (!d.call.all printable) = false := by simpa using hcall
  have hbad : decide (15#8 < d.ssid) = true := decide_eq_true hssid
  simp [descriptorError, hgood, hbad]

end

/-- The first descriptor with an error decides the error of its table (43_frame_builder.md R194). -/
theorem tableError_eq_of_first {ds : List Descriptor} {k : Nat} {d : Descriptor} {code : ErrCode} (hk : ds[k]? = some d)
    (hbefore : ∀ j d', j < k → ds[j]? = some d' → descriptorError d' = none) (hd : descriptorError d = some code) :
    tableError ds = some code := by
  induction ds generalizing k with
  | nil => simp at hk
  | cons d₀ ds ih =>
    cases k with
    | zero =>
      obtain rfl : d₀ = d := by simpa using hk
      simp only [tableError, hd]
    | succ k =>
      have hd₀ : descriptorError d₀ = none := hbefore 0 d₀ k.succ_pos rfl
      simp only [tableError, hd₀]
      exact ih hk fun j d' hj => hbefore (j + 1) d' (Nat.succ_lt_succ hj)

/-! ### The statements about the commands -/

/-- Settles O38: the length is the first check. -/
theorem overlongCallsignRejected : Obligations.OverlongCallsignRejected :=
  fun _ _ _ h => command_of_check (if_pos (decide_eq_true h))

/-- Settles O36: every check passes and every byte is printable, so the effects are applied. -/
theorem addrEncCompletes : Obligations.AddrEncCompletes :=
  fun _ _ _ _ hlen hssid hin hout hapart hcall hprint =>
    exec_addrEnc_of_printable (addrEnc_passed hlen hssid hin hout hapart hcall) fun c hc =>
      (printable_eq_true_iff c).mpr (hprint c hc)

/-- Settles O37: every check passes, so the content check decides; in a table it is that of the first illegal descriptor. -/
theorem contentErrors : Obligations.ContentErrors := by
  unfold Obligations.ContentErrors
  refine ⟨fun s ssid last call hlen hssid hin hout hapart hcall ⟨c, hc, hbad⟩ => ?_, ?_⟩
  · exact exec_addrEnc_of_not_printable (addrEnc_passed hlen hssid hin hout hapart hcall)
      ⟨c, hc, (printable_eq_false_iff c).mpr hbad⟩
  · intro s ndigi table payload k d
    dsimp only
    intro htable hpayload hout hapart hapart' hread hread' hk hlegal
    have passed := frameBuild_passed (ndigi := ndigi) htable hpayload hout hapart hapart' hread hread'
    have hbefore := fun j d' hj hd' => (hlegal j d' hj hd').elim descriptorError_eq_none
    exact ⟨fun hchar => exec_frameBuild_of_tableError passed
        (tableError_eq_of_first hk hbefore (descriptorError_eq_callChar hchar)),
      fun hcall hssid => exec_frameBuild_of_tableError passed
        (tableError_eq_of_first hk hbefore (descriptorError_eq_ssid hcall hssid))⟩

/-! ### The characters of an address -/

/-- `upper` with its range in numbers (41_address_encoder.md R162). -/
theorem upper_eq (c : Byte) : upper c = if 0x61 ≤ c.toNat ∧ c.toNat ≤ 0x7A then c - 0x20#8 else c := rfl

/-- A character that an address can hold: printable and not a lower-case letter (41_address_encoder.md R169). -/
def AddressChar (c : Byte) : Prop := 0x20 ≤ c.toNat ∧ c.toNat ≤ 0x7E ∧ ¬ (0x61 ≤ c.toNat ∧ c.toNat ≤ 0x7A)

theorem addressChar_upper {c : Byte} (h : printable c = true) : AddressChar (upper c) := by
  rw [printable_eq_true_iff] at h
  rw [upper_eq, AddressChar]
  split
  · bv_omega
  · exact ⟨h.1, h.2, ‹_›⟩

/-- Shifting a character left and back gives it back, since its bit 7 is 0. -/
theorem AddressChar.shiftLeft_shiftRight {c : Byte} (h : AddressChar c) : (c <<< 1) >>> 1 = c := by
  obtain ⟨-, hmax, -⟩ := h
  bv_omega

section
variable {call : List Byte}

theorem addressChar_of_mem_paddedCall (h : ∀ c ∈ call, printable c = true) {c : Byte} (hc : c ∈ paddedCall call) :
    AddressChar c := by
  rcases List.mem_append.mp hc with hc | hc
  · obtain ⟨x, hx, rfl⟩ := List.mem_map.mp hc
    exact addressChar_upper (h x hx)
  · rw [List.eq_of_mem_replicate hc]
    unfold AddressChar
    decide

theorem paddedCall_length (h : call.length ≤ 6) : (paddedCall call).length = 6 := by
  simp [paddedCall, h]

theorem paddedCall_getElem?_of_char {j : Nat} {c : Byte} (h : call[j]? = some c) :
    (paddedCall call)[j]? = some (upper c) := by
  obtain ⟨hj, -⟩ := List.getElem?_eq_some_iff.mp h
  rw [paddedCall, List.getElem?_append_left (by simpa using hj), List.getElem?_map, h, Option.map_some]

theorem paddedCall_getElem?_of_missing {j : Nat} (hj : call.length ≤ j) (hj6 : j < 6) :
    (paddedCall call)[j]? = some 0x20#8 := by
  rw [paddedCall, List.getElem?_append_right (by simpa using hj), List.length_map]
  exact List.getElem?_replicate_of_lt (by omega)

/-! ### The bytes of an address -/

variable (ssid : Nat) (last : Bool)

theorem encodeAddress_getElem?_of_padded {j : Nat} {c : Byte} (h : (paddedCall call)[j]? = some c) :
    (encodeAddress call ssid last)[j]? = some (c <<< 1) := by
  obtain ⟨hj, -⟩ := List.getElem?_eq_some_iff.mp h
  rw [encodeAddress, List.getElem?_append_left (by simpa using hj), List.getElem?_map, h, Option.map_some]

theorem encodeAddress_getElem?_six (h : call.length ≤ 6) :
    (encodeAddress call ssid last)[6]? = some (ssidByte ssid last) := by
  rw [encodeAddress, List.getElem?_append_right (by simp [paddedCall_length h])]
  simp [paddedCall_length h]

end

/-- The fields of byte 6 (41_address_encoder.md R161): bit 0 the flag, bits 7:5 fixed, bits 4:1 the SSID. -/
theorem ssidByte_fields {ssid : Nat} (h : ssid ≤ 15) (last : Bool) :
    (ssidByte ssid last).getLsbD 0 = last ∧ ssidByte ssid last &&& 0xE0#8 = 0x60#8 ∧
      ((ssidByte ssid last >>> 1) &&& 0x0F#8).toNat = ssid := by
  have each : ∀ n < 16, ∀ b, (ssidByte n b).getLsbD 0 = b ∧ ssidByte n b &&& 0xE0#8 = 0x60#8 ∧
      ((ssidByte n b >>> 1) &&& 0x0F#8).toNat = n := by decide
  exact each ssid (Nat.lt_succ_of_le h) last

/-- What an address says, read back from its bytes: the padded callsign, the SSID and the "is last" flag. -/
def addressFields (e : List Byte) : List Byte × Option (Nat × Bool) :=
  ((e.take 6).map fun c : Byte => c >>> 1, e[6]?.map fun b : Byte => (((b >>> 1) &&& 0x0F#8).toNat, b.getLsbD 0))

/-- Encoding an address loses nothing but the case of the callsign's letters and the spaces at its end. -/
theorem addressFields_encodeAddress {call : List Byte} {ssid : Nat} {last : Bool} (hlen : call.length ≤ 6)
    (hprint : ∀ c ∈ call, printable c = true) (hssid : ssid ≤ 15) :
    addressFields (encodeAddress call ssid last) = (paddedCall call, some (ssid, last)) := by
  obtain ⟨hlast, -, hfield⟩ := ssidByte_fields hssid last
  have hchars : ((encodeAddress call ssid last).take 6).map (fun c : Byte => c >>> 1) = paddedCall call := by
    rw [encodeAddress, List.take_left' (by simp [paddedCall_length hlen]), List.map_map]
    exact (List.map_congr_left fun c hc => (addressChar_of_mem_paddedCall hprint hc).shiftLeft_shiftRight).trans
      (List.map_id _)
  rw [addressFields, hchars, encodeAddress_getElem?_six ssid last hlen, Option.map_some, hlast, hfield]

theorem encodeAddress_injective {call call' : List Byte} {ssid ssid' : Nat} {last last' : Bool} (hlen : call.length ≤ 6)
    (hprint : ∀ c ∈ call, printable c = true) (hssid : ssid ≤ 15) (hlen' : call'.length ≤ 6)
    (hprint' : ∀ c ∈ call', printable c = true) (hssid' : ssid' ≤ 15)
    (heq : encodeAddress call ssid last = encodeAddress call' ssid' last') :
    paddedCall call = paddedCall call' ∧ ssid = ssid' ∧ last = last' := by
  have hfields := congrArg addressFields heq
  rw [addressFields_encodeAddress hlen hprint hssid, addressFields_encodeAddress hlen' hprint' hssid'] at hfields
  simpa using hfields

/-- Settles O39: each byte is a shifted character of the padded callsign or the SSID byte, and both can be read back. -/
theorem encodedAddressLaws : Obligations.EncodedAddressLaws := by
  unfold Obligations.EncodedAddressLaws
  constructor
  · intro call ssid last hlen hprint hssid
    have hsix := encodeAddress_getElem?_six ssid last hlen
    refine ⟨encodeAddress_length ssid last hlen, fun j c hc => ?_, fun j hj hj6 => ?_, ?_, fun j hj => ?_,
      _, hsix, ssidByte_fields hssid last⟩
    · exact encodeAddress_getElem?_of_padded ssid last (paddedCall_getElem?_of_char hc)
    · exact encodeAddress_getElem?_of_padded ssid last (paddedCall_getElem?_of_missing hj hj6)
    · rw [hsix, ssidByte]
      cases last <;> rfl
    · have hjc := List.getElem?_eq_getElem (hj.trans_eq (paddedCall_length hlen).symm)
      have hchar := addressChar_of_mem_paddedCall hprint (List.mem_of_getElem? hjc)
      refine ⟨_, encodeAddress_getElem?_of_padded ssid last hjc, by simp, ?_⟩
      rw [hchar.shiftLeft_shiftRight]
      exact hchar
  · exact fun _ _ _ _ _ _ => encodeAddress_injective

end Sys2Proof.Machine
end

section
/-!
PROOFS, the CRC over buffers and messages. When CRC_BUF completes and with what (42_crc.md R181); and why 0xF0B8 is the residue of
exactly the messages that end with their FCS (R183): the conditional shift is XOR-linear and injective, so sixteen shifts fold the
last two bytes as one 16-bit value, and 0xF0B8 is what they make of 0xFFFF.
-/

namespace Sys2Proof.Machine

/-! ### A command that completes with code 0 -/

/-- A command whose errors all have codes other than 0 passed its checks when it completes with code 0 (40_common.md R135). -/
theorem command_passed {α : Type} {s t : State} {checks : List (Bool × ErrCode)} {ins outs : List Region} {input : Option α}
    {body : α → Except ErrCode State} (h : command s checks ins outs input body = .next t) (herr : t.err = .none)
    (hchecks : ∀ x ∈ checks, x.2 ≠ .none) (hbody : ∀ x, body x ≠ .error .none) :
    ∃ x u, Passed s checks ins outs input x ∧ body x = .ok u ∧ t = u.succeed := by
  cases hc : firstFailing checks with
  | some code =>
    rw [command_of_check hc] at h
    cases h
    exact absurd (hc.trans (congrArg some herr)) (firstFailing_ne_none_code hchecks)
  | none =>
    cases hr : regionError s.lmemSize ins outs with
    | some code =>
      rw [command_of_region hc hr] at h
      cases h
      exact absurd (hr.trans (congrArg some herr)) (regionError_ne_none_code _)
    | none =>
      cases input with
      | none =>
        rw [command_of_unwritten hc hr] at h
        cases h
      | some x =>
        cases hb : body x with
        | error code =>
          rw [command_of_body_error hc hr hb] at h
          cases h
          exact absurd (hb.trans (congrArg Except.error herr)) (hbody x)
        | ok u =>
          rw [command_of_ok hc hr hb] at h
          cases h
          exact ⟨x, u, ⟨hc, hr, rfl⟩, hb, rfl⟩

/-! ### CRC_BUF -/

/-- CRC_BUF passed its checks and read `bytes` (42_crc.md R181). -/
abbrev CrcBufPassed (s : State) (bytes : List Byte) : Prop :=
  Passed s (checksOf .crcBuf s.cmdArgs s.cmdCfg) (inputsOf .crcBuf s.cmdArgs) (outputsOf .crcBuf s.cmdArgs)
    (s.lmem.readBytes s.cmdArgs.n0 s.cmdArgs.n1) bytes

/-- The state after CRC_BUF over `bytes` (42_crc.md R181). -/
def State.foldCrc (s : State) (bytes : List Byte) : State :=
  ((s.setCrc (crcFold s.units.crc bytes)).setResult ((crcFinal (crcFold s.units.crc bytes)).setWidth 32)).succeed

section
variable {s t : State} {bytes : List Byte}

/-- The checks of CRC_BUF are those of its one input region. -/
theorem crcBufPassed_iff :
    CrcBufPassed s bytes ↔ (s.cmdArgs.n1 = 0 ∨ s.cmdArgs.n0 + s.cmdArgs.n1 ≤ s.lmemSize) ∧
      s.lmem.readBytes s.cmdArgs.n0 s.cmdArgs.n1 = some bytes := by
  have hregion : regionError s.lmemSize (inputsOf .crcBuf s.cmdArgs) (outputsOf .crcBuf s.cmdArgs) = none ↔
      s.cmdArgs.n1 = 0 ∨ s.cmdArgs.n0 + s.cmdArgs.n1 ≤ s.lmemSize := by
    simp [regionError_eq_none_iff, inputsOf, outputsOf, byteRegion, inRange_eq_true_iff]
  rw [← hregion]
  exact ⟨fun passed => ⟨passed.regions_pass, passed.input_eq⟩, fun ⟨hr, hread⟩ => ⟨rfl, hr, hread⟩⟩

theorem exec_crcBuf (passed : CrcBufPassed s bytes) : exec .crcBuf s = .next (s.foldCrc bytes) :=
  passed.command_eq_succeed (body := fun _ => .ok _) rfl

theorem exec_crcBuf_of_err_none (h : exec .crcBuf s = .next t) (herr : t.err = .none) :
    ∃ bytes, CrcBufPassed s bytes ∧ t = s.foldCrc bytes := by
  dsimp only [exec, execCrcBuf] at h
  obtain ⟨bytes, u, passed, hu, rfl⟩ := command_passed h herr (by simp) fun _ => nofun
  cases hu
  exact ⟨bytes, passed, rfl⟩

end

theorem crcFold_eq_foldl (crc : Half) (bytes : List Byte) : crcFold crc bytes = bytes.foldl crcStep crc := by
  induction bytes generalizing crc with
  | nil => rfl
  | cons b bytes ih => exact ih (crcStep crc b)

/-- Settles O33: the region is in range and written, so CRC_BUF folds its bytes. -/
theorem crcBufCompletes : Obligations.CrcBufCompletes := by
  unfold Obligations.CrcBufCompletes
  intro s bytes hin hread
  rw [exec_crcBuf (crcBufPassed_iff.mpr ⟨hin, hread⟩), ← crcFold_eq_foldl]
  rfl

/-! ### Consecutive buffers -/

theorem Memory.readBytes_split {m : Memory} {a k n : Nat} {l : List Byte} (h : m.readBytes a (k + n) = some l) :
    m.readBytes a k = some (l.take k) ∧ m.readBytes (a + k) n = some (l.drop k) := by
  obtain ⟨hlen, hread⟩ := (m.readBytes_eq_some_iff _ _ _).mp h
  constructor <;> refine (m.readBytes_eq_some_iff _ _ _).mpr ⟨by simp [hlen], fun j hj => ?_⟩
  · rw [List.getElem_take]
    exact hread j _
  · rw [List.getElem_drop, Nat.add_assoc]
    exact hread (k + j) _

/-- CRC_BUF over the `y` bytes at `x`, latched as an issue latches it (40_common.md R133). -/
def State.latchCrcBuf (s : State) (x y : Nat) : State :=
  let args : Args := { s.args with a0 := BitVec.ofNat 32 x, a1 := BitVec.ofNat 32 y }
  { s with args := args, latched := some { word := 0x04000000, args := args, cfg := s.cfg } }

/-- What it takes to pass the checks of CRC_BUF latched over the `y` bytes at `x`. -/
theorem latchCrcBuf_passed_iff {s : State} {x y : Nat} {bytes : List Byte} (h : x + y < 2 ^ 32) :
    CrcBufPassed (s.latchCrcBuf x y) bytes ↔ (y = 0 ∨ x + y ≤ s.lmemSize) ∧ s.lmem.readBytes x y = some bytes := by
  have hx : (s.latchCrcBuf x y).cmdArgs.n0 = x := Nat.mod_eq_of_lt (by omega)
  have hy : (s.latchCrcBuf x y).cmdArgs.n1 = y := Nat.mod_eq_of_lt (by omega)
  rw [crcBufPassed_iff, hx, hy]
  rfl

/-- Settles O34: both halves of the buffer are in range and written, and the fold over both is the fold over the whole. -/
theorem crcBufSplits : Obligations.CrcBufSplits := by
  unfold Obligations.CrcBufSplits
  intro s t a m n hlt buffer hexec herr
  obtain ⟨bytes, passed, rfl⟩ := exec_crcBuf_of_err_none (s := s.latchCrcBuf a (m + n)) hexec herr
  obtain ⟨hin, hread⟩ := (latchCrcBuf_passed_iff (by omega)).mp passed
  obtain ⟨hfirst, hsecond⟩ := Memory.readBytes_split hread
  have hfold : crcFold (crcFold s.units.crc (bytes.take m)) (bytes.drop m) = crcFold s.units.crc bytes := by
    rw [← crcFold_append, List.take_append_drop]
  have passed₁ : CrcBufPassed (s.latchCrcBuf a m) (bytes.take m) :=
    (latchCrcBuf_passed_iff (by omega)).mpr ⟨by omega, hfirst⟩
  have passed₂ : CrcBufPassed (((s.latchCrcBuf a m).foldCrc (bytes.take m)).latchCrcBuf (a + m) n) (bytes.drop m) :=
    (latchCrcBuf_passed_iff (by omega)).mpr ⟨show n = 0 ∨ a + m + n ≤ s.lmemSize by omega, hsecond⟩
  exact ⟨_, _, exec_crcBuf passed₁, exec_crcBuf passed₂, congrArg (fun crc => { s.units with crc := crc }) hfold,
    congrArg (fun crc => (crcFinal crc).setWidth 32) hfold, rfl, rfl, rfl⟩

/-! ### The conditional shift is XOR-linear and injective -/

theorem crcShift_xor (c d : Half) : crcShift (c ^^^ d) = crcShift c ^^^ crcShift d := by
  unfold crcShift
  rw [BitVec.getLsbD_xor, BitVec.ushiftRight_xor_distrib]
  cases c.getLsbD 0 <;> cases d.getLsbD 0 <;> simp [BitVec.xor_assoc, BitVec.xor_comm (d >>> 1)]

theorem crcShifts_xor (n : Nat) (c d : Half) : crcShifts n (c ^^^ d) = crcShifts n c ^^^ crcShifts n d := by
  induction n generalizing c d with
  | zero => rfl
  | succ n ih => rw [crcShifts, crcShift_xor, ih]; rfl

theorem crcShifts_add (m n : Nat) (c : Half) : crcShifts (m + n) c = crcShifts n (crcShifts m c) := by
  induction m generalizing c with
  | zero => rw [Nat.zero_add]; rfl
  | succ m ih => rw [Nat.succ_add]; exact ih (crcShift c)

/-- Bit 15 after the shift tells which branch it took, since only the polynomial sets it. -/
theorem crcShift_getLsbD_15 (c : Half) : (crcShift c).getLsbD 15 = c.getLsbD 0 := by
  unfold crcShift
  split
  next h => simp [h]
  next h => simpa using h

theorem crcShift_injective : Function.Injective crcShift := by
  intro c d h
  have hlow : c.getLsbD 0 = d.getLsbD 0 := by rw [← crcShift_getLsbD_15, h, crcShift_getLsbD_15]
  have hhigh : c >>> 1 = d >>> 1 := by
    unfold crcShift at h
    rw [hlow] at h
    split at h
    · exact (BitVec.xor_left_inj _).mp h
    · exact h
  apply BitVec.eq_of_getLsbD_eq
  intro i hi
  cases i with
  | zero => exact hlow
  | succ i => simpa [Nat.add_comm] using congrArg (·.getLsbD i) hhigh

theorem crcShifts_injective (n : Nat) : Function.Injective (crcShifts n) := by
  induction n with
  | zero => exact Function.injective_id
  | succ n ih => exact ih.comp crcShift_injective

/-! ### The residue -/

/-- The 16-bit value of two bytes, low byte first (43_frame_builder.md R193). -/
def halfOfBytes (lo hi : Byte) : Half := lo.setWidth 16 ^^^ hi.setWidth 16 <<< 8

theorem halfOfBytes_getLsbD (lo hi : Byte) {i : Nat} (hi16 : i < 16) :
    (halfOfBytes lo hi).getLsbD i = if i < 8 then lo.getLsbD i else hi.getLsbD (i - 8) := by
  unfold halfOfBytes
  split
  next h => simp [h, hi16]
  next h => simp [h, hi16, lo.getLsbD_of_ge i (Nat.le_of_not_lt h)]

theorem halfOfBytes_eq_iff (lo hi : Byte) (v : Half) :
    halfOfBytes lo hi = v ↔ lo = v.extractLsb' 0 8 ∧ hi = v.extractLsb' 8 8 := by
  constructor
  · rintro rfl
    constructor <;> refine BitVec.eq_of_getLsbD_eq fun i h => ?_ <;>
      rw [BitVec.getLsbD_extractLsb', halfOfBytes_getLsbD _ _ (by omega)] <;> simp [h]
  · rintro ⟨rfl, rfl⟩
    refine BitVec.eq_of_getLsbD_eq fun i h => ?_
    rw [halfOfBytes_getLsbD _ _ h]
    split
    next hlow => simp [hlow]
    next hhigh => simp [show i - 8 < 8 by omega, Nat.add_sub_of_le (Nat.le_of_not_lt hhigh)]

/-- Eight shifts bring a byte down from the high half of the register, since no bit below it is set. -/
theorem crcShifts_eight_shiftLeft : ∀ b : Byte, crcShifts 8 (b.setWidth 16 <<< 8) = b.setWidth 16 := by decide

/-- Two bytes fold as the 16-bit value they make. -/
theorem crcFold_pair (crc : Half) (lo hi : Byte) : crcFold crc [lo, hi] = crcShifts 16 (crc ^^^ halfOfBytes lo hi) :=
  calc crcShifts 8 (crcShifts 8 (crc ^^^ lo.setWidth 16) ^^^ hi.setWidth 16)
      = crcShifts 8 (crcShifts 8 (crc ^^^ lo.setWidth 16 ^^^ hi.setWidth 16 <<< 8)) := by
        rw [crcShifts_xor 8 (crc ^^^ _), crcShifts_eight_shiftLeft]
    _ = crcShifts 16 (crc ^^^ halfOfBytes lo hi) := by
        rw [BitVec.xor_assoc, ← crcShifts_add, halfOfBytes]

/-- The residue 0xF0B8 is what sixteen shifts make of 0xFFFF, and of nothing else. -/
theorem crcShifts_eq_residue_iff (c : Half) : crcShifts 16 c = 0xF0B8#16 ↔ c = 0xFFFF#16 := by
  have hfirst : crcShifts 8 0xFFFF#16 = 0x0F87#16 := by decide
  have hsecond : crcShifts 8 0x0F87#16 = 0xF0B8#16 := by decide
  rw [← hsecond, ← hfirst, ← crcShifts_add, (crcShifts_injective 16).eq_iff]

theorem xor_eq_ones_iff (c d : Half) : c ^^^ d = 0xFFFF#16 ↔ d = crcFinal c := by
  rw [← BitVec.xor_right_inj c, ← BitVec.xor_assoc, BitVec.xor_self, BitVec.zero_xor, crcFinal]

/-- Settles O35: the last two bytes leave the residue exactly when they complete the register to 0xFFFF. -/
theorem residueOfEveryMessage : Obligations.ResidueOfEveryMessage := by
  unfold Obligations.ResidueOfEveryMessage
  intro msg lo hi
  rw [crcFold_append, crcFold_pair, crcShifts_eq_residue_iff, xor_eq_ones_iff, halfOfBytes_eq_iff, fcs]

end Sys2Proof.Machine
end

section
/-!
PROOFS, the frame assembler. FRAME_BUILD with legal descriptors (43_frame_builder.md R194), and a frame byte by byte: what each
descriptor of the table says, where each part of the frame stands, and its residue (R191, R192, R195, R198).
-/

namespace Sys2Proof.Machine

/-! ### FRAME_BUILD -/

/-- A table of legal descriptors has no error (43_frame_builder.md R194). -/
theorem tableError_eq_none {ds : List Descriptor} (h : ∀ d ∈ ds, descriptorError d = none) : tableError ds = none := by
  induction ds with
  | nil => rfl
  | cons d ds ih =>
    obtain ⟨hd, hds⟩ := List.forall_mem_cons.mp h
    simp only [tableError, hd]
    exact ih hds

/-- The state in which FRAME_BUILD leaves its effects (43_frame_builder.md R194). -/
def State.storeFrame (s : State) (ndigi : Nat) (body : List Byte) : State :=
  ((s.store s.cmdArgs.n3 (withFcs body)).setCrc (crcFold 0xFFFF#16 body)).setResult
    (BitVec.ofNat 32 (frameLength ndigi s.cmdArgs.n2))

theorem exec_frameBuild_of_tableError_eq_none {s : State} {ndigi : Nat} {table payload : List Byte}
    (passed : FrameBuildPassed s ndigi table payload)
    (hgood : tableError (descriptors (addressCount ndigi) table) = none) :
    exec (.frameBuild ndigi) s =
      .next (s.storeFrame ndigi (frameBody (descriptors (addressCount ndigi) table) payload)).succeed :=
  passed.command_eq_succeed (by simp only [hgood]; rfl)

/-- Settles O40: every check passes and no descriptor is illegal, so the effects are applied. -/
theorem frameBuildCompletes : Obligations.FrameBuildCompletes := by
  unfold Obligations.FrameBuildCompletes
  intro s ndigi table payload
  dsimp only
  intro htable hpayload hout hapart hapart' hread hread' hlegal
  have passed := frameBuild_passed (ndigi := ndigi) htable hpayload hout hapart hapart' hread hread'
  exact exec_frameBuild_of_tableError_eq_none passed (tableError_eq_none fun d hd => (hlegal d hd).elim descriptorError_eq_none)

/-! ### What a descriptor says -/

/-- The callsign in the six bytes a descriptor has for it (43_frame_builder.md R192). -/
def callOf (field : List Byte) : List Byte := field.takeWhile (· != 0#8)

section
variable {field : List Byte}

theorem callOf_length_le : (callOf field).length ≤ field.length := (List.takeWhile_sublist _).length_le

theorem ne_zero_of_mem_callOf {c : Byte} (h : c ∈ callOf field) : c ≠ 0#8 := by
  simpa using List.mem_takeWhile_imp h

/-- What ends a callsign before the end of its field is a 0x00. -/
theorem getElem?_callOf_length (h : (callOf field).length < field.length) : field[(callOf field).length]? = some 0#8 := by
  induction field with
  | nil => simp at h
  | cons c field ih =>
    by_cases hc : c = 0#8
    · simp [callOf, hc]
    · have hcons : callOf (c :: field) = c :: callOf field := by simp [callOf, hc]
      rw [hcons] at h ⊢
      exact ih (Nat.lt_of_succ_lt_succ h)

end

/-- Descriptor `i` of a table, read at its place (43_frame_builder.md R192). -/
def descriptorAt (table : List Byte) (i : Nat) : Descriptor where
  call := callOf ((table.drop (8 * i)).take 6)
  ssid := table.getD (8 * i + 6) 0#8

theorem descriptors_succ {n : Nat} {table : List Byte} (h : 8 ≤ table.length) :
    descriptors (n + 1) table = descriptorAt table 0 :: descriptors n (table.drop 8) := by
  match table, h with
  | _ :: _ :: _ :: _ :: _ :: _ :: _ :: _ :: _, _ => rfl

theorem descriptorAt_drop (table : List Byte) (i : Nat) : descriptorAt (table.drop 8) i = descriptorAt table (i + 1) := by
  simp [descriptorAt, List.drop_drop, Nat.mul_succ, Nat.add_comm, Nat.add_left_comm]

/-- The descriptors of a whole table are those at its places, in order. -/
theorem descriptors_eq_map_range {n : Nat} {table : List Byte} (h : table.length = 8 * n) :
    descriptors n table = (List.range n).map (descriptorAt table) := by
  induction n generalizing table with
  | zero => simp [descriptors]
  | succ n ih =>
    rw [descriptors_succ (by omega), ih (by simp; omega), List.range_succ_eq_map, List.map_cons, List.map_map]
    exact congrArg _ (List.map_congr_left fun i _ => descriptorAt_drop table i)

section
variable {table : List Byte} {n i : Nat}

theorem descriptors_length (h : table.length = 8 * n) : (descriptors n table).length = n := by
  simp [descriptors_eq_map_range h]

theorem descriptors_getElem? (h : table.length = 8 * n) (hi : i < n) :
    (descriptors n table)[i]? = some (descriptorAt table i) := by
  simp [descriptors_eq_map_range h, hi]

theorem getElem?_ssid (h : table.length = 8 * n) (hi : i < n) :
    table[8 * i + 6]? = some (descriptorAt table i).ssid := by
  simp [descriptorAt, List.getElem?_eq_getElem (show 8 * i + 6 < table.length by omega)]

end

/-! ### Where the parts of a frame stand -/

/-- Bit 0 of an address's byte 6 is the "is last" flag, whatever the SSID is (43_frame_builder.md R195). -/
theorem ssidByte_getLsbD_zero (ssid : Nat) (last : Bool) : (ssidByte ssid last).getLsbD 0 = last := by
  simp [ssidByte]

/-- A body with its FCS leaves the residue (43_frame_builder.md R198). -/
theorem crcFold_withFcs (body : List Byte) : crcFold 0xFFFF#16 (withFcs body) = 0xF0B8#16 :=
  (residueOfEveryMessage body _ _).mpr ⟨rfl, rfl⟩

/-- The parts of a frame in their order (43_frame_builder.md R191). -/
theorem withFcs_frameBody_eq_append (ds : List Descriptor) (payload : List Byte) :
    ∃ fcsBytes, withFcs (frameBody ds payload) = addressField ds ++ 0x03#8 :: 0xF0#8 :: (payload ++ fcsBytes) :=
  ⟨_, (List.append_assoc _ _ _).trans (List.append_assoc _ _ _)⟩

section
variable {ds : List Descriptor} (hcalls : ∀ d ∈ ds, d.call.length ≤ 6) (payload : List Byte)
include hcalls

/-- Address `i` of the address field is descriptor `i` encoded, flagged when it is the last (43_frame_builder.md R194, R195). -/
theorem addressField_slice {i : Nat} {d : Descriptor} (hi : ds[i]? = some d) :
    ((addressField ds).drop (7 * i)).take 7 = encodeAddress d.call d.ssid.toNat (decide (i + 1 = ds.length)) := by
  fun_induction addressField ds generalizing i with
  | case1 => simp at hi
  | case2 d₀ =>
    have hlen := encodeAddress_length d₀.ssid.toNat true (hcalls d₀ (by simp))
    obtain ⟨rfl, rfl⟩ : i = 0 ∧ d₀ = d := by simpa [List.getElem?_singleton] using hi
    simp [List.take_of_length_le hlen.le]
  | case3 d₀ d₁ ds ih =>
    have hlen := encodeAddress_length d₀.ssid.toNat false (hcalls d₀ (by simp))
    cases i with
    | zero =>
      obtain rfl : d₀ = d := by simpa using hi
      simp [List.take_left' hlen]
    | succ i =>
      rw [Nat.mul_succ, Nat.add_comm, ← List.drop_drop, List.drop_left' hlen,
        ih (fun x hx => hcalls x (List.mem_cons_of_mem _ hx)) hi]
      simp

theorem frame_address {i : Nat} {d : Descriptor} (hi : ds[i]? = some d) :
    ((withFcs (frameBody ds payload)).drop (7 * i)).take 7 =
      encodeAddress d.call d.ssid.toNat (decide (i + 1 = ds.length)) := by
  obtain ⟨fcsBytes, hframe⟩ := withFcs_frameBody_eq_append ds payload
  have hlen := addressField_length hcalls
  obtain ⟨hlt, -⟩ := List.getElem?_eq_some_iff.mp hi
  rw [hframe, List.drop_append_of_le_length (by omega), List.take_append_of_le_length (by rw [List.length_drop]; omega),
    addressField_slice hcalls hi]

/-- Only the last address has bit 0 of its byte 6 set (43_frame_builder.md R195). -/
theorem frame_lastBit {i : Nat} {d : Descriptor} (hi : ds[i]? = some d) :
    ∃ b, (withFcs (frameBody ds payload))[7 * i + 6]? = some b ∧ b.getLsbD 0 = decide (i + 1 = ds.length) := by
  refine ⟨_, ?_, ssidByte_getLsbD_zero d.ssid.toNat _⟩
  rw [← encodeAddress_getElem?_six d.ssid.toNat _ (hcalls d (List.mem_of_getElem? hi)), ← frame_address hcalls payload hi,
    List.getElem?_take_of_lt (by decide), List.getElem?_drop]

/-- FLEN (43_frame_builder.md R194). -/
theorem frame_length : (withFcs (frameBody ds payload)).length = 7 * ds.length + 4 + payload.length := by
  simp only [withFcs, frameBody, List.length_append, List.length_cons, List.length_nil, addressField_length hcalls]
  omega

/-- After the addresses stand the control byte, the protocol-ID byte and the payload (43_frame_builder.md R191, R194). -/
theorem frame_afterAddresses :
    (withFcs (frameBody ds payload))[7 * ds.length]? = some 0x03#8 ∧
      (withFcs (frameBody ds payload))[7 * ds.length + 1]? = some 0xF0#8 ∧
      ((withFcs (frameBody ds payload)).drop (7 * ds.length + 2)).take payload.length = payload := by
  obtain ⟨fcsBytes, hframe⟩ := withFcs_frameBody_eq_append ds payload
  rw [hframe, ← addressField_length hcalls]
  simp

end

/-- Settles O41: the addresses are the encoded descriptors of the table in order, and the other parts follow them. -/
theorem frameLaws : Obligations.FrameLaws := by
  unfold Obligations.FrameLaws
  intro ndigi table payload hlen
  have hcount := descriptors_length hlen
  have hcalls : ∀ d ∈ descriptors (2 + ndigi) table, d.call.length ≤ 6 := fun _ => call_length_le_of_mem_descriptors
  have hlast : ∀ i, i + 1 = (descriptors (2 + ndigi) table).length ↔ i = 1 + ndigi := by omega
  have hlength := frame_length hcalls payload
  have hafter := frame_afterAddresses hcalls payload
  rw [hcount] at hlength hafter
  obtain ⟨hcontrol, hpid, hpayload⟩ := hafter
  refine ⟨hcount, fun i hi => ?_, hlength, crcFold_withFcs _, hcontrol, hpid, hpayload, fun i hi => ?_⟩
  · have haddress := frame_address hcalls payload (descriptors_getElem? hlen hi)
    have hfield : ((table.drop (8 * i)).take 6).length = 6 := by simp; omega
    simp only [hlast] at haddress
    exact ⟨descriptorAt table i, descriptors_getElem? hlen hi, getElem?_ssid hlen hi,
      ⟨_, List.takeWhile_append_dropWhile.symm⟩, fun _ => ne_zero_of_mem_callOf,
      fun h => getElem?_callOf_length (h.trans_eq hfield.symm), haddress⟩
  · have hbit := frame_lastBit hcalls payload (descriptors_getElem? hlen hi)
    simpa only [hlast] using hbit

end Sys2Proof.Machine
end

section
/-!
PROOFS, the bit-stuffer. The stuffing laws (44_bit_transformer.md R209, R213) from one induction over `stuff`: a bit is a 0, a 1
below the fifth of its run, or the fifth; and the two commands that stuff no buffer (R210, R211).
-/

namespace Sys2Proof.Machine

/-! ### One bit at a time -/

section
variable {cnt : Nat} {t : Bits}

theorem stuff_zero : stuff cnt (false :: t) = (false :: (stuff 0 t).1, (stuff 0 t).2) := rfl

theorem stuffStep_one (h : cnt < 4) : stuffStep cnt true = ([true], cnt + 1) := by
  simp only [stuffStep, if_true, show cnt + 1 ≠ 5 by omega, if_false]

theorem stuff_one (h : cnt < 4) : stuff cnt (true :: t) = (true :: (stuff (cnt + 1) t).1, (stuff (cnt + 1) t).2) := by
  rw [stuff, stuffStep_one h]
  rfl

theorem stuff_fifth : stuff 4 (true :: t) = (true :: false :: (stuff 0 t).1, (stuff 0 t).2) := rfl

end

/-- The recursion of `stuff` from a count below 5, one case per row of `StuffStep` (44_bit_transformer.md R207). -/
theorem stuff_induction {motive : (cnt : Nat) → Bits → cnt < 5 → Prop} (nil : ∀ cnt below, motive cnt [] below)
    (zero : ∀ cnt below t, motive 0 t (by decide) → motive cnt (false :: t) below)
    (one : ∀ cnt (below : cnt < 4) t, motive (cnt + 1) t (by omega) → motive cnt (true :: t) (by omega))
    (fifth : ∀ t, motive 0 t (by decide) → motive 4 (true :: t) (by decide)) (cnt : Nat) (r : Bits) (below : cnt < 5) :
    motive cnt r below := by
  induction r generalizing cnt with
  | nil => exact nil cnt below
  | cons b t ih =>
    cases b with
    | false => exact zero cnt below t (ih 0 (by omega))
    | true =>
      by_cases hcnt : cnt < 4
      · exact one cnt hcnt t (ih (cnt + 1) (by omega))
      · obtain rfl : cnt = 4 := by omega
        exact fifth t (ih 0 (by omega))

/-! ### Runs of 1s -/

theorem eq_nil_of_prefix_zero_cons {l ys : Bits} (h : l <+: false :: ys) (hl : false ∉ l) : l = [] := by
  obtain rfl | ⟨t, rfl, -⟩ := List.prefix_cons_iff.mp h
  · rfl
  · exact absurd List.mem_cons_self hl

/-- A run of 1s does not reach across a 0. -/
theorem ones_infix_append_zero_cons {n : Nat} {xs ys : Bits} (h : List.replicate n true <:+: xs ++ false :: ys) :
    List.replicate n true <:+: xs ∨ List.replicate n true <:+: ys := by
  have hones : false ∉ List.replicate n true := by simp
  obtain hx | hy | ⟨l₁, l₂, hl, hsuffix, hprefix⟩ := List.infix_append_iff.mp h
  · exact .inl hx
  · obtain hprefix | hy := List.infix_cons_iff.mp hy
    · rw [eq_nil_of_prefix_zero_cons hprefix hones]
      exact .inl List.nil_infix
    · exact .inr hy
  · obtain rfl : l₂ = [] := eq_nil_of_prefix_zero_cons hprefix fun hmem => hones (hl ▸ List.mem_append_right l₁ hmem)
    rw [hl, List.append_nil]
    exact .inl hsuffix.isInfix

theorem not_ones_infix_of_lt {n k : Nat} (h : k < n) : ¬ List.replicate n true <:+: List.replicate k true := fun hrun =>
  absurd ((List.replicate_sublist_replicate true).mp hrun.sublist) (by omega)

/-- A 1 after the `cnt` 1s that a count stands for makes the run one longer. -/
theorem ones_append_one_cons (cnt : Nat) (t : Bits) :
    List.replicate cnt true ++ true :: t = List.replicate (cnt + 1) true ++ t := by
  simp [List.replicate_succ']

/-! ### The stuffing laws -/

section
variable {cnt : Nat} (r : Bits) (below : cnt < 5)
include below

/-- No run of six 1s leaves the stuffer, the `cnt` 1s before its input included (44_bit_transformer.md R209). -/
theorem stuff_no_run_of_six : ¬ List.replicate 6 true <:+: List.replicate cnt true ++ (stuff cnt r).1 := by
  induction cnt, r, below using stuff_induction with
  | nil cnt below =>
    rw [stuff, List.append_nil]
    exact not_ones_infix_of_lt (by omega)
  | zero cnt below t ih =>
    rw [stuff_zero]
    exact fun hrun => (ones_infix_append_zero_cons hrun).elim (not_ones_infix_of_lt (by omega)) ih
  | one cnt below t ih => rwa [stuff_one below, ones_append_one_cons]
  | fifth t ih =>
    rw [stuff_fifth, ones_append_one_cons]
    exact fun hrun => (ones_infix_append_zero_cons hrun).elim (not_ones_infix_of_lt (by decide)) ih

/-- Stuffing adds no 1 (44_bit_transformer.md R209). -/
theorem stuff_count_true : (stuff cnt r).1.count true = r.count true := by
  induction cnt, r, below using stuff_induction with
  | nil => rfl
  | zero cnt below t ih => simpa [stuff_zero] using ih
  | one cnt below t ih => simpa [stuff_one below] using ih
  | fifth t ih => simpa [stuff_fifth] using ih

theorem length_le_stuff_length : r.length ≤ (stuff cnt r).1.length := by
  induction cnt, r, below using stuff_induction with
  | nil => exact Nat.le_refl _
  | zero cnt below t ih => simpa [stuff_zero] using ih
  | one cnt below t ih => simpa [stuff_one below] using ih
  | fifth t ih =>
    simp only [stuff_fifth, List.length_cons]
    omega

/-- An input that makes no run of five 1s, with the `cnt` 1s before it, is unchanged (44_bit_transformer.md R209). -/
theorem stuff_eq_self (hrun : ¬ List.replicate 5 true <:+: List.replicate cnt true ++ r) : (stuff cnt r).1 = r := by
  induction cnt, r, below using stuff_induction with
  | nil => rfl
  | zero cnt below t ih =>
    have ht : ¬ List.replicate 5 true <:+: t := fun h => hrun (h.trans ⟨List.replicate cnt true ++ [false], [], by simp⟩)
    rw [stuff_zero, ih ht]
  | one cnt below t ih =>
    rw [ones_append_one_cons] at hrun
    rw [stuff_one below, ih hrun]
  | fifth t ih =>
    rw [ones_append_one_cons] at hrun
    exact absurd (List.prefix_append _ _).isInfix hrun

/-- Destuffing undoes stuffing from the same count (44_bit_transformer.md R209). -/
theorem destuff_stuff : destuff cnt (stuff cnt r).1 = r := by
  induction cnt, r, below using stuff_induction with
  | nil => rfl
  | zero cnt below t ih => simp [stuff_zero, destuff, ih, Nat.ne_of_lt below]
  | one cnt below t ih => simp [stuff_one below, destuff, ih, show cnt ≠ 5 by omega]
  | fifth t ih => simp [stuff_fifth, destuff, ih]

end

/-- A 0 clears the count, so a sequence that is empty or ends in a 0 leaves it 0 (44_bit_transformer.md R207). -/
theorem stuff_count_eq_zero {r : Bits} (h : r = [] ∨ r.getLast? = some false) : (stuff 0 r).2 = 0 := by
  obtain rfl | h := h
  · rfl
  · obtain ⟨r, rfl⟩ := List.getLast?_eq_some_iff.mp h
    rw [stuff_append]
    rfl

/-- Settles O44: each law from count 0, where no 1 stands before the input; and the last five 1s are stuffed from count 0. -/
theorem stuffingLaws : Obligations.StuffingLaws := by
  unfold Obligations.StuffingLaws
  have hzero : 0 < 5 := by decide
  refine ⟨fun r => ⟨stuff_no_run_of_six r hzero, length_le_stuff_length r hzero, stuff_count_true r hzero,
    stuff_eq_self r hzero, destuff_stuff r hzero⟩, fun r hlast => ?_⟩
  rw [stuff_append, stuff_count_eq_zero hlast]
  rfl

/-! ### STUFF_RESET and STUFF_BIT -/

theorem bitPacket_singleton (b : Bool) : bitPacket [b] = if b then 0x101 else 0x100 := by
  cases b <;> rfl

theorem bitPacket_fifth : bitPacket [true, false] = 0x201 := rfl

theorem exec_stuffBit {s : State} {bit : Bool} {o : Bits × Nat} (h : stuffStep s.units.onesCnt.toNat bit = o) :
    exec (.stuffBit bit) s = .next ((s.setOnesCnt o.2).setResult (bitPacket o.1)).succeed := by
  rw [← h]
  rfl

/-- Settles O42: STUFF_RESET has no case; of STUFF_BIT, the bit and the count name the row of `StuffStep`. -/
theorem stuffBitCommandsComplete : Obligations.StuffBitCommandsComplete := by
  unfold Obligations.StuffBitCommandsComplete
  refine fun s => ⟨rfl, exec_stuffBit (o := ([false], 0)) rfl, fun hlt => ?_, fun hfour => ?_⟩
  · have hcnt : BitVec.ofNat 3 (s.units.onesCnt.toNat + 1) = s.units.onesCnt + 1 := by
      rw [BitVec.ofNat_add, BitVec.ofNat_toNat, BitVec.setWidth_eq]
      rfl
    rw [exec_stuffBit (stuffStep_one hlt), State.setOnesCnt, hcnt, bitPacket_singleton]
    rfl
  · have hstep : stuffStep s.units.onesCnt.toNat true = ([true, false], 0) := by
      rw [hfour]
      rfl
    rw [exec_stuffBit hstep, bitPacket_fifth]
    rfl

end Sys2Proof.Machine
end

section
/-!
PROOFS, the framer and the NRZI encoder. Where each part of a framed sequence stands and how it is cut out again
(44_bit_transformer.md R214 to R217, R228), that NRZI is invertible (R225), and the two commands that encode no buffer (R222,
R223).
-/

namespace Sys2Proof.Machine

/-! ### Framing -/

theorem flag_getElem? {k : Nat} (hk : k < 8) : flag[k]? = some (decide (k ≠ 0 ∧ k ≠ 7)) := by
  interval_cases k <;> rfl

/-- Flags repeat every eight bits (44_bit_transformer.md R214). -/
theorem flags_getElem? {q k : Nat} (hk : k < 8 * q) : (flags q)[k]? = some (decide (k % 8 ≠ 0 ∧ k % 8 ≠ 7)) := by
  induction q generalizing k with
  | zero => omega
  | succ q ih =>
    rw [flags]
    by_cases hfirst : k < 8
    · rw [List.getElem?_append_left hfirst, flag_getElem? hfirst, Nat.mod_eq_of_lt hfirst]
    · have hlen : flag.length = 8 := rfl
      rw [List.getElem?_append_right (by omega), hlen, ih (by omega), ← Nat.mod_eq_sub_mod (by omega)]

section
variable {s : Bits} (p q : Nat)

theorem wrap_of_ne_nil (hs : s ≠ []) :
    wrap s p q = List.replicate (8 * (p - q)) false ++ (flags q ++ (s ++ flags q)) := by
  cases s with
  | nil => exact absurd rfl hs
  | cons b t => simp [wrap]

/-- Cutting the preamble and the flags off a framed sequence gives it back (44_bit_transformer.md R228, step 2). -/
theorem unframe_wrap (hs : s ≠ []) : unframe p q (wrap s p q) = s := by
  rw [wrap_of_ne_nil p q hs, unframe, ← List.drop_drop, List.drop_left' (by simp), List.drop_left' (by simp)]
  exact List.take_left' (by simp; omega)

end

/-- Settles O46: each part of the framed sequence, found past the parts before it. -/
theorem framingLayout : Obligations.FramingLayout := by
  unfold Obligations.FramingLayout
  refine fun s p q hqp => ⟨rfl, fun hs => ?_⟩
  rw [wrap_of_ne_nil p q hs]
  refine ⟨by simp; omega, fun k hk => ?_, fun k hk => ⟨?_, ?_⟩, fun k hk => ?_⟩
  · rw [List.getElem?_append_left (by simpa using hk), List.getElem?_replicate_of_lt hk]
  · rw [List.getElem?_append_right (by simp), List.getElem?_append_left (by simp; omega), ← flags_getElem? hk]
    simp
  · rw [List.getElem?_append_right (by simp; omega), List.getElem?_append_right (by simp; omega),
      List.getElem?_append_right (by simp; omega), ← flags_getElem? hk]
    congr 1
    simp
    omega
  · rw [List.getElem?_append_right (by simp; omega), List.getElem?_append_right (by simp; omega),
      List.getElem?_append_left (by simp; omega)]
    congr 1
    simp
    omega

/-! ### NRZI -/

theorem nrziStep_eq_self_iff {st b : Bool} : nrziStep st b = st ↔ b = true := by
  cases b <;> simp [nrziStep]

/-- Bit `k` is a 1 exactly when the line state did not change at it (44_bit_transformer.md R225); the states before the bits are
the initial state and then the outputs. -/
theorem nrzi_bit_eq_true_iff {st : Bool} {b : Bits} {k : Nat} (hk : k < b.length) :
    b[k]? = some true ↔ (nrzi st b).1[k]? = (st :: (nrzi st b).1)[k]? := by
  induction b generalizing st k with
  | nil => simp at hk
  | cons x t ih =>
    cases k with
    | zero => simpa [nrzi] using nrziStep_eq_self_iff.symm
    | succ k => exact ih (Nat.lt_of_succ_lt_succ hk)

/-- The final state is the last of the initial state and the outputs (44_bit_transformer.md R225). -/
theorem nrzi_final (st : Bool) (b : Bits) : (st :: (nrzi st b).1)[b.length]? = some (nrzi st b).2 := by
  induction b generalizing st with
  | nil => rfl
  | cons x t ih => exact ih (nrziStep st x)

theorem nrziDecode_nrzi (st : Bool) (b : Bits) : nrziDecode st (nrzi st b).1 = b := by
  induction b generalizing st with
  | nil => rfl
  | cons x t ih =>
    have hbit : (nrziStep st x == st) = x := by cases x <;> simp [nrziStep]
    rw [nrzi, nrziDecode, ih, hbit]

/-- Settles O49: the line state before bit `k` is the initial state, or the output before it. -/
theorem nrziInverse : Obligations.NrziInverse := by
  unfold Obligations.NrziInverse
  refine fun st b => ⟨nrzi_length st b, fun k hk => ?_, fun hlen => ?_, nrziDecode_nrzi st b⟩
  · rw [← List.getElem?_cons]
    exact nrzi_bit_eq_true_iff hk
  · rw [← nrzi_final, List.getElem?_cons, if_neg (by omega)]

/-! ### NRZI_SET and NRZI_BIT -/

theorem exec_nrziSet (bit : Bool) (s : State) :
    exec (.nrziSet bit) s = .next ((s.setLineState bit).setResult (if bit then 1 else 0)).succeed := by
  cases bit <;> rfl

theorem exec_nrziBit (bit : Bool) (s : State) :
    exec (.nrziBit bit) s =
      .next ((s.setLineState (nrziStep s.units.lineState bit)).setResult
        (if nrziStep s.units.lineState bit then 0x101 else 0x100)).succeed := by
  rw [← bitPacket_singleton]
  rfl

/-- Settles O47: a 0 toggles the line state and a 1 holds it. -/
theorem nrziBitCommandsComplete : Obligations.NrziBitCommandsComplete := by
  unfold Obligations.NrziBitCommandsComplete
  refine fun s => ⟨fun bit => exec_nrziSet bit s, ?_, exec_nrziBit true s⟩
  rw [exec_nrziBit]
  cases hline : s.units.lineState <;> rfl

end Sys2Proof.Machine
end

section
/-!
PROOFS, the buffer commands of the bit transformer. Each reads one region and stores packed bits in another, so when the
capacity suffices the shared order of checks comes to its effects (44_bit_transformer.md R212, R218, R224, R226); and the
round trip of LINE_ENCODE undoes its stages in reverse order (R228).
-/

namespace Sys2Proof.Machine

/-! ### A command with one input region, one output region and a capacity -/

section
variable {α : Type} {s t : State} {checks : List (Bool × ErrCode)} {r q : Region} {ins outs : List Region} {input : Option α}
  {x : α} {n : α → Nat} {cap : Nat} {u : α → State}

theorem passed_of_apart (hchecks : firstFailing checks = none) (hin : inRange s.lmemSize r = true)
    (hout : inRange s.lmemSize q = true) (hapart : overlap r q = false) (hinput : input = some x) :
    Passed s checks [r] [q] input x where
  checks_pass := hchecks
  regions_pass := regionError_eq_none_iff.mpr (by simp [hin, hout, hapart])
  input_eq := hinput

/-- Past its checks and with enough capacity a command completes with its effects (40_common.md R136, step 7). -/
theorem Passed.command_eq_of_fits (passed : Passed s checks ins outs input x) (fits : n x ≤ cap) :
    (command s checks ins outs input fun x => withCapacity (n x) cap (u x)) = .next (u x).succeed :=
  passed.command_eq_succeed (withCapacity_eq_ok_iff.mpr ⟨fits, rfl⟩)

/-- A command that completes with code 0 passed its checks and its output fits. -/
theorem command_fits_of_err_none
    (h : (command s checks ins outs input fun x => withCapacity (n x) cap (u x)) = .next t) (herr : t.err = .none)
    (hchecks : ∀ x ∈ checks, x.2 ≠ .none) :
    ∃ x, Passed s checks ins outs input x ∧ n x ≤ cap ∧ t = (u x).succeed := by
  obtain ⟨x, v, passed, hv, rfl⟩ := command_passed h herr hchecks fun x => (keepsErrs_withCapacity (s := u x) rfl).1
  obtain ⟨fits, rfl⟩ := withCapacity_eq_ok_iff.mp hv
  exact ⟨x, passed, fits, rfl⟩

end

/-! ### The statements about the buffer commands -/

/-- Settles O43: the checks pass and the stuffed bits fit, so the effects are applied. -/
theorem stuffBufCompletes : Obligations.StuffBufCompletes :=
  fun _ _ hin hout hapart hbits fits => (passed_of_apart firstFailing_nil hin hout hapart hbits).command_eq_of_fits fits

/-- Settles O45: PREPEND is at least POSTPEND, which is the one check of the configuration, and the framed bits fit. -/
theorem frameWrapCompletes : Obligations.FrameWrapCompletes :=
  fun _ _ hframing hin hout hapart hbits fits =>
    (passed_of_apart ((firstFailing_framingChecks_eq_none_iff _).mpr hframing) hin hout hapart hbits).command_eq_of_fits fits

/-- Settles O48: as many line bits leave NRZI_BUF as it reads, so the capacity is compared with A[1]. -/
theorem nrziBufCompletes : Obligations.NrziBufCompletes := by
  unfold Obligations.NrziBufCompletes
  intro s bits
  dsimp only
  intro hin hout hapart hbits fits
  rw [← Memory.readBits_length hbits, ← nrzi_length s.units.lineState bits] at fits ⊢
  exact (passed_of_apart firstFailing_nil hin hout hapart hbits).command_eq_of_fits fits

/-! ### LINE_ENCODE -/

/-- LINE_ENCODE passed its checks and read `frame` (44_bit_transformer.md R226). -/
abbrev LineEncodePassed (s : State) (frame : List Byte) : Prop :=
  Passed s (framingChecks s.cmdCfg) [byteRegion s.cmdArgs.n0 s.cmdArgs.n1] [bitRegion s.cmdArgs.n2 s.cmdArgs.n3]
    (s.lmem.readBytes s.cmdArgs.n0 s.cmdArgs.n1) frame

/-- The state in which LINE_ENCODE leaves its effects (44_bit_transformer.md R226). -/
def State.storeLine (s : State) (frame : List Byte) : State :=
  let o := lineEncoded s.cmdCfg frame
  (((s.store s.cmdArgs.n2 (packBits o.1)).setOnesCnt o.2.1).setLineState o.2.2).setResult (BitVec.ofNat 32 o.1.length)

section
variable {s t : State} {frame : List Byte}

theorem exec_lineEncode (passed : LineEncodePassed s frame)
    (fits : (lineEncoded s.cmdCfg frame).1.length ≤ s.cmdArgs.n3) : exec .lineEncode s = .next (s.storeLine frame).succeed :=
  passed.command_eq_of_fits (n := fun frame => (lineEncoded s.cmdCfg frame).1.length) (u := s.storeLine) fits

theorem exec_lineEncode_of_err_none (h : exec .lineEncode s = .next t) (herr : t.err = .none) :
    ∃ frame, LineEncodePassed s frame ∧ (lineEncoded s.cmdCfg frame).1.length ≤ s.cmdArgs.n3 ∧
      t = (s.storeLine frame).succeed := by
  dsimp only [exec, execLineEncode] at h
  exact command_fits_of_err_none h herr (by simp [framingChecks])

end

/-- Settles O50: PREPEND is at least POSTPEND, which is the one check of the configuration, and the line bits fit. -/
theorem lineEncodeCompletes : Obligations.LineEncodeCompletes :=
  fun _ _ hframing hin hout hapart hframe fits =>
    exec_lineEncode (passed_of_apart ((firstFailing_framingChecks_eq_none_iff _).mpr hframing) hin hout hapart hframe) fits

/-! ### The round trip -/

theorem stuff_bitsOfBytes_ne_nil {frame : List Byte} (h : frame ≠ []) : (stuff 0 (bitsOfBytes frame)).1 ≠ [] := by
  have hlen := length_le_stuff_length (cnt := 0) (bitsOfBytes frame) (by decide)
  have hpos := List.length_pos_iff.mpr h
  rw [bitsOfBytes_length] at hlen
  exact List.ne_nil_of_length_pos (by omega)

/-- The three decoding steps undo the three stages of the transformer (44_bit_transformer.md R227, R228). -/
theorem decode_lineEncoded (c : Cfg) {frame : List Byte} (h : frame ≠ []) :
    destuff 0 (unframe c.prepend c.postpend (nrziDecode c.nrziInit (lineEncoded c frame).1)) = bitsOfBytes frame := by
  rw [lineEncoded, nrziDecode_nrzi, unframe_wrap _ _ (stuff_bitsOfBytes_ne_nil h), destuff_stuff _ (by decide)]

/-- The bits that LINE_ENCODE stored read back as its line-encoded bits: their number fits RESULT, since it fits A[3]. -/
theorem storeLine_readBits {s : State} {frame : List Byte} (fits : (lineEncoded s.cmdCfg frame).1.length ≤ s.cmdArgs.n3) :
    (s.storeLine frame).lmem.readBits s.cmdArgs.n2 (s.storeLine frame).result.toNat =
      some (lineEncoded s.cmdCfg frame).1 := by
  have hresult : (s.storeLine frame).result.toNat = (lineEncoded s.cmdCfg frame).1.length :=
    Nat.mod_eq_of_lt (Nat.lt_of_le_of_lt fits s.cmdArgs.a3.isLt)
  rw [hresult]
  exact Memory.readBits_writeBytes_packBits _ _ _

/-- Settles O51: the law of the functions, and a LINE_ENCODE that succeeds stored the line bits of its frame. -/
theorem lineEncodeRoundTrip : Obligations.LineEncodeRoundTrip := by
  unfold Obligations.LineEncodeRoundTrip
  refine ⟨fun c frame hne _ => decode_lineEncoded c hne, fun s t frame hframe hne hexec herr => ?_⟩
  obtain ⟨frame', passed, fits, rfl⟩ := exec_lineEncode_of_err_none hexec herr
  obtain rfl : frame = frame' := Option.some.inj (hframe.symm.trans passed.input_eq)
  exact ⟨_, storeLine_readBits fits, decode_lineEncoded s.cmdCfg hne⟩

end Sys2Proof.Machine
end

section
/-!
PROOFS, the sine table and LUT_READ (45_sine_lut.md). Three facts are computed on the list of entries: its second half is its first
half negated, its first 129 entries read the same backwards, and the entries after the first of the first half are positive and at most
32767. `sineTable_getElem?_eq_lut` carries them over to `lut`, where the properties of R243 follow from them.
-/

namespace Sys2Proof.Machine

/-! ### The list of entries -/

/-- Entries 0 to 127, half a turn. -/
def sineHalf : List Int := sineQuarter0 ++ sineQuarter1

theorem sineHalf_length : sineHalf.length = 128 := by
  rw [sineHalf, List.length_append, sineQuarter0_length, sineQuarter1_length]

theorem sineQuarter2_eq_neg : sineQuarter2 = sineQuarter0.map Neg.neg := by decide

theorem sineQuarter3_eq_neg : sineQuarter3 = sineQuarter1.map Neg.neg := by decide

/-- Half a turn later the sine is negated. -/
theorem sineTable_eq_append_neg : sineTable = sineHalf ++ sineHalf.map Neg.neg := by
  rw [sineTable, sineQuarter2_eq_neg, sineQuarter3_eq_neg, sineHalf, List.map_append, List.append_assoc (_ ++ _)]

/-- The sine rises to a quarter turn and falls back through the same values. -/
theorem sineTable_take_reverse : (sineTable.take 129).reverse = sineTable.take 129 := by decide

theorem sineQuarter0_tail_bounds : ∀ x ∈ sineQuarter0.tail, 0 < x ∧ x ≤ 32767 := by decide

theorem sineQuarter1_bounds : ∀ x ∈ sineQuarter1, 0 < x ∧ x ≤ 32767 := by decide

theorem sineHalf_eq_cons : sineHalf = 0 :: (sineQuarter0.tail ++ sineQuarter1) := rfl

theorem sineHalf_tail_bounds {x : Int} (h : x ∈ sineHalf.tail) : 0 < x ∧ x ≤ 32767 := by
  rw [sineHalf_eq_cons, List.tail_cons] at h
  exact (List.mem_append.mp h).elim (sineQuarter0_tail_bounds x) (sineQuarter1_bounds x)

theorem sineHalf_bounds {x : Int} (h : x ∈ sineHalf) : 0 ≤ x ∧ x ≤ 32767 := by
  rw [sineHalf_eq_cons] at h
  obtain rfl | htail := List.mem_cons.mp h
  · decide
  · exact (sineHalf_tail_bounds htail).imp_left Int.le_of_lt

theorem sineTable_bounds {x : Int} (h : x ∈ sineTable) : -32767 ≤ x ∧ x ≤ 32767 := by
  rw [sineTable_eq_append_neg, List.mem_append, List.mem_map] at h
  obtain hx | ⟨y, hy, rfl⟩ := h
  · have := sineHalf_bounds hx
    omega
  · have := sineHalf_bounds hy
    omega

theorem sineTable_sum : sineTable.sum = 0 := by
  rw [sineTable_eq_append_neg, List.sum_append, ← List.sum_neg, add_neg_cancel]

section
variable {i : Nat}

theorem sineTable_getElem?_add_128 (h : i < 128) : sineTable[i + 128]? = sineTable[i]?.map Neg.neg := by
  have hlen := sineHalf_length
  rw [sineTable_eq_append_neg, List.getElem?_append_right (by omega), List.getElem?_append_left (by omega), hlen,
    Nat.add_sub_cancel, List.getElem?_map]

theorem sineTable_getElem?_128_sub (h : i ≤ 128) : sineTable[128 - i]? = sineTable[i]? := by
  have hlen : (sineTable.take 129).length = 129 := by rw [List.length_take, sineTable_length]; rfl
  have hmirror : (sineTable.take 129)[i]? = (sineTable.take 129)[128 - i]? := by
    conv_lhs => rw [← sineTable_take_reverse]
    rw [List.getElem?_reverse (by omega), hlen]
  rwa [List.getElem?_take_of_lt (by omega), List.getElem?_take_of_lt (by omega), eq_comm] at hmirror

/-! ### The entries as `lut` gives them -/

/-- The 16 bits of an entry hold its value. -/
theorem sineTable_getElem?_eq_lut (h : i < 256) : sineTable[i]? = some (lut (BitVec.ofNat 8 i)).toInt := by
  have hi : i < sineTable.length := by rwa [sineTable_length]
  obtain ⟨hlo, hhi⟩ := sineTable_bounds (List.getElem_mem hi)
  have hindex : (BitVec.ofNat 8 i).toNat = i := Nat.mod_eq_of_lt h
  simp only [lut, hindex, BitVec.toInt_ofInt]
  rw [Int.bmod_eq_of_le (by omega) (by omega), List.getElem?_eq_getElem hi]

theorem lut_bounds (i : Byte) : -32767 ≤ (lut i).toInt ∧ (lut i).toInt ≤ 32767 := by
  have hentry := sineTable_getElem?_eq_lut i.isLt
  rw [BitVec.ofNat_toNat, BitVec.setWidth_eq] at hentry
  exact sineTable_bounds (List.mem_of_getElem? hentry)

theorem lut_eq_lut_128_sub (h : i ≤ 128) : lut (BitVec.ofNat 8 i) = lut (BitVec.ofNat 8 (128 - i)) := by
  have hmirror := sineTable_getElem?_128_sub h
  rw [sineTable_getElem?_eq_lut (by omega), sineTable_getElem?_eq_lut (by omega)] at hmirror
  exact BitVec.eq_of_toInt_eq (Option.some.inj hmirror).symm

theorem lut_add_128_toInt (h : i < 128) : (lut (BitVec.ofNat 8 (i + 128))).toInt = -(lut (BitVec.ofNat 8 i)).toInt := by
  have hnegated := sineTable_getElem?_add_128 h
  rw [sineTable_getElem?_eq_lut (by omega), sineTable_getElem?_eq_lut (by omega)] at hnegated
  exact Option.some.inj hnegated

/-- The entry at 256 − i is half a turn after the one at 128 − i, which mirrors the one at i. -/
theorem lut_256_sub_toInt_of_le_128 (h : 1 ≤ i) (h' : i ≤ 128) :
    (lut (BitVec.ofNat 8 (256 - i))).toInt = -(lut (BitVec.ofNat 8 i)).toInt := by
  rw [lut_eq_lut_128_sub h', ← lut_add_128_toInt (by omega), show 128 - i + 128 = 256 - i by omega]

theorem lut_toInt_eq_neg_256_sub (h : 1 ≤ i) (h' : i ≤ 255) :
    (lut (BitVec.ofNat 8 i)).toInt = -(lut (BitVec.ofNat 8 (256 - i))).toInt := by
  obtain hgt | hle := Nat.lt_or_ge 128 i
  · rw [← lut_256_sub_toInt_of_le_128 (by omega) (by omega), show 256 - (256 - i) = i by omega]
  · rw [lut_256_sub_toInt_of_le_128 h hle, Int.neg_neg]

theorem lut_pos (h : 1 ≤ i) (h' : i ≤ 127) : 0 < (lut (BitVec.ofNat 8 i)).toInt := by
  obtain ⟨j, rfl⟩ := Nat.exists_eq_add_of_le' h
  have hlen := sineHalf_length
  have hentry := sineTable_getElem?_eq_lut (i := j + 1) (by omega)
  rw [sineTable_eq_append_neg, List.getElem?_append_left (by omega), ← List.getElem?_tail] at hentry
  exact (sineHalf_tail_bounds (List.mem_of_getElem? hentry)).1

theorem lut_neg (h : 129 ≤ i) (h' : i ≤ 255) : (lut (BitVec.ofNat 8 i)).toInt < 0 := by
  rw [lut_toInt_eq_neg_256_sub (by omega) h']
  exact Int.neg_neg_of_pos (lut_pos (by omega) (by omega))

end

theorem map_lut_range : ((List.range 256).map fun i => (lut (BitVec.ofNat 8 i)).toInt) = sineTable := by
  refine List.ext_getElem (by simp [sineTable_length]) fun i hi _ => ?_
  rw [List.length_map, List.length_range] at hi
  rw [List.getElem_map, List.getElem_range]
  exact (List.getElem_eq_iff _).mpr (sineTable_getElem?_eq_lut hi) |>.symm

/-- Settles O54: the symmetries and signs follow from the mirror and the half turn, the sum from the half turn alone. -/
theorem lutProperties : Obligations.LutProperties := by
  unfold Obligations.LutProperties
  refine ⟨by decide, by decide, by decide, by decide, fun _ => lut_eq_lut_128_sub, fun _ => lut_toInt_eq_neg_256_sub,
    fun i => ?_, ?_, fun _ => lut_pos, fun _ => lut_neg⟩
  · obtain ⟨hlo, hhi⟩ := lut_bounds i
    exact ⟨hlo, hhi, BitVec.toInt_signExtend_of_le (by decide)⟩
  · rw [map_lut_range, sineTable_sum]

/-! ### LUT_READ -/

/-- Settles O53: sign extension to 32 bits is, by its definition, the 32-bit word of the entry's value. -/
theorem lutReadCompletes : Obligations.LutReadCompletes := by
  unfold Obligations.LutReadCompletes
  exact ⟨fun _ _ => rfl, by decide, by decide, by decide, by decide, by decide⟩

end Sys2Proof.Machine
end

section
/-!
PROOFS, the two synthesizers (46_tone_synth.md R258, R260, R261, R266). The loops of both variants read the same samples off a
sequence of accumulator values that grows by the active step, so each has one equation (`synthExact_eq`, `synthNaive_eq`), and the
variants differ only in which bit is active at a sample.
-/

namespace Sys2Proof.Machine

/-! ### The length law -/

/-- What the naive variant drops is the remainder of SR/BR at every bit (46_tone_synth.md R261). -/
theorem mul_div_eq_mul_div_add (n sr : Nat) {br : Nat} (hbr : 1 ≤ br) :
    n * sr / br = n * (sr / br) + n * (sr % br) / br := by
  have hsplit : n * sr = br * (n * (sr / br)) + n * (sr % br) := by
    conv_lhs => rw [← Nat.div_add_mod sr br, Nat.mul_add, Nat.mul_left_comm]
  rw [hsplit, Nat.mul_add_div hbr]

/-- Settles O57: the first lengths differ by what the dropped remainders add up to; the others are those of the outputs. -/
theorem sampleLengths : Obligations.SampleLengths := by
  unfold Obligations.SampleLengths
  refine fun c hbr => ⟨fun n => ?_, synthesized_length c, fun hsr hbr n => ?_⟩
  · dsimp only
    rw [mul_div_eq_mul_div_add n _ hbr]
    refine ⟨Nat.le_add_right _ _, Nat.add_sub_cancel_left _ _, ?_⟩
    rw [Ne, Nat.add_eq_left, Nat.div_eq_zero_iff_lt hbr, Nat.not_lt]
  · have hexact : exactLength c n = n * 8000 / 1200 := by rw [exactLength, hsr, hbr]; rfl
    have hnaive : naiveLength c n = n * 6 := by rw [naiveLength, Cfg.spb, hsr, hbr]; rfl
    omega

/-! ### The samples of a sequence of accumulator values -/

/-- The `n` samples read from sample `k` on, when `acc` gives the tone accumulator before each sample (46_tone_synth.md R257). -/
def samplesOf (acc : Nat → Word) (k n : Nat) : List Half := (List.range' k n).map fun j => lut (tableIndex (acc j))

section
variable (acc : Nat → Word) (k n : Nat)

theorem samplesOf_succ : samplesOf acc k (n + 1) = lut (tableIndex (acc k)) :: samplesOf acc (k + 1) n := rfl

theorem samplesOf_add (m : Nat) : samplesOf acc k (m + n) = samplesOf acc k m ++ samplesOf acc (k + m) n := by
  rw [samplesOf, ← List.range'_append_1, List.map_append]
  rfl

@[simp] theorem samplesOf_length : (samplesOf acc k n).length = n := by
  simp [samplesOf]

end

theorem samplesOf_zero_getElem? (acc : Nat → Word) {k n : Nat} (h : k < n) :
    (samplesOf acc 0 n)[k]? = some (lut (tableIndex (acc k))) := by
  simp [samplesOf, h]

/-! ### The accumulator of each variant -/

/-- The tone accumulator of the naive variant before sample `k`: bit `k / spb` is active there (46_tone_synth.md R260). -/
def naiveAcc (ms ss : Word) (spb : Nat) (bits : Bits) (k : Nat) : Word := toneSum ms ss bits (fun k => k / spb) k

/-- The tone accumulator of the exact variant before sample `k`: bit `k * bs / 2 ^ 16` is active there (46_tone_synth.md R258). -/
def exactAcc (ms ss : Word) (bs : Nat) (bits : Bits) (k : Nat) : Word := toneSum ms ss bits (fun k => k * bs / 2 ^ 16) k

section
variable (ms ss : Word) (spb bs : Nat) (bits : Bits) (k : Nat)

theorem naiveAcc_succ :
    naiveAcc ms ss spb bits (k + 1) = naiveAcc ms ss spb bits k + toneFor ms ss (bits.getD (k / spb) false) := rfl

theorem exactAcc_succ :
    exactAcc ms ss bs bits (k + 1) = exactAcc ms ss bs bits k + toneFor ms ss (bits.getD (k * bs / 2 ^ 16) false) := rfl

end

/-! ### The naive variant -/

/-- A run of one tone reads the samples of every sequence that grows by its step. -/
theorem toneRun_eq {acc : Nat → Word} {step : Word} {n k : Nat} (h : ∀ j, k ≤ j → j < k + n → acc (j + 1) = acc j + step) :
    toneRun step n (acc k) = (samplesOf acc k n, acc (k + n)) := by
  induction n generalizing k with
  | zero => rfl
  | succ n ih =>
    have hrest := ih (k := k + 1) fun j hk hj => h j (by omega) (by omega)
    rw [toneRun, ← h k (by omega) (by omega), hrest, samplesOf_succ, Nat.add_assoc, Nat.add_comm 1 n]

section
variable {ms ss : Word} {spb : Nat} {bits : Bits}

/-- The `spb` samples of bit `i`. -/
theorem toneRun_naiveAcc {i : Nat} (h : i < bits.length) :
    toneRun (toneFor ms ss bits[i]) spb (naiveAcc ms ss spb bits (i * spb)) =
      (samplesOf (naiveAcc ms ss spb bits) (i * spb) spb, naiveAcc ms ss spb bits (i * spb + spb)) := by
  refine toneRun_eq fun j hlow hhigh => ?_
  have hactive : j / spb = i := Nat.div_eq_of_lt_le hlow (by rwa [Nat.succ_mul])
  rw [naiveAcc_succ, hactive, List.getD_eq_getElem _ _ h]

/-- The naive loop from bit `i` on, with `m` bits to come. -/
theorem naiveLoop_eq {m i : Nat} (h : i + m = bits.length) :
    naiveLoop ms ss spb (bits.drop i) (naiveAcc ms ss spb bits (i * spb)) =
      (samplesOf (naiveAcc ms ss spb bits) (i * spb) (m * spb), naiveAcc ms ss spb bits ((i + m) * spb)) := by
  induction m generalizing i with
  | zero =>
    rw [List.drop_of_length_le (by omega), Nat.zero_mul]
    rfl
  | succ m ih =>
    have hi : i < bits.length := by omega
    have hrest := ih (i := i + 1) (by omega)
    have hcount : (m + 1) * spb = spb + m * spb := by rw [Nat.succ_mul, Nat.add_comm]
    rw [Nat.succ_mul, Nat.add_assoc i, Nat.add_comm 1] at hrest
    rw [List.drop_eq_getElem_cons hi, naiveLoop, toneRun_naiveAcc hi, hrest, hcount, samplesOf_add]

end

/-- The naive variant in closed form (46_tone_synth.md R260). -/
theorem synthNaive_eq (ms ss : Word) (spb : Nat) (bits : Bits) :
    synthNaive ms ss spb bits =
      (samplesOf (naiveAcc ms ss spb bits) 0 (bits.length * spb), naiveAcc ms ss spb bits (bits.length * spb)) := by
  have hloop := naiveLoop_eq (ms := ms) (ss := ss) (spb := spb) (bits := bits) (i := 0) (Nat.zero_add _)
  rwa [Nat.zero_mul, Nat.zero_add] at hloop

/-! ### The exact variant -/

/-- At a bit boundary that is not the end of the input, the step becomes that of the next bit. -/
theorem nextStep_drop {ms ss step : Word} {bits : Bits} {i : Nat} (h : i < bits.length) :
    nextStep ms ss step (bits.drop i) = toneFor ms ss (bits.getD i false) := by
  rw [List.drop_eq_getElem_cons h, List.getD_eq_getElem _ _ h]
  rfl

/-- The exact loop from sample `k` on, with the bits, step and accumulators that it has there (46_tone_synth.md R258, R259): the
bit accumulator is the remainder of `k * bs`, and the quotient is the active bit. -/
theorem exactLoop_eq {ms ss : Word} {bs : Nat} {bits : Bits} (hbs : bs ≤ 2 ^ 16) {n k : Nat} {step : Word}
    (hactive : ∀ j < k + n, j * bs / 2 ^ 16 < bits.length)
    (hstep : 0 < n → step = toneFor ms ss (bits.getD (k * bs / 2 ^ 16) false)) :
    exactLoop ms ss bs n (bits.drop (k * bs / 2 ^ 16 + 1)) step (exactAcc ms ss bs bits k) (k * bs % 2 ^ 16) =
      (samplesOf (exactAcc ms ss bs bits) k n, exactAcc ms ss bs bits (k + n), (k + n) * bs % 2 ^ 16) := by
  induction n generalizing k step with
  | zero => rfl
  | succ n ih =>
    have hsucc : (k + 1) * bs = k * bs + bs := Nat.succ_mul k bs
    have hlater : ∀ j < k + 1 + n, j * bs / 2 ^ 16 < bits.length := fun j hj => hactive j (by omega)
    rw [exactLoop, hstep n.succ_pos, ← exactAcc_succ, List.tail_drop, samplesOf_succ,
      show k + (n + 1) = k + 1 + n by omega]
    split
    next hboundary =>
      have hquot : k * bs / 2 ^ 16 + 1 = (k + 1) * bs / 2 ^ 16 := by omega
      have hrem : k * bs % 2 ^ 16 + bs - 2 ^ 16 = (k + 1) * bs % 2 ^ 16 := by omega
      rw [hquot, hrem, ih hlater fun hn => nextStep_drop (hlater (k + 1) (by omega))]
    next hinside =>
      have hquot : k * bs / 2 ^ 16 = (k + 1) * bs / 2 ^ 16 := by omega
      have hrem : k * bs % 2 ^ 16 + bs = (k + 1) * bs % 2 ^ 16 := by omega
      rw [hquot, hrem, ih hlater fun _ => rfl]

/-- The exact variant in closed form (46_tone_synth.md R258). -/
theorem synthExact_eq (ms ss : Word) {bs len : Nat} {bits : Bits} (hbs : bs ≤ 2 ^ 16)
    (hactive : ∀ k < len, k * bs / 2 ^ 16 < bits.length) :
    synthExact ms ss bs len bits =
      (samplesOf (exactAcc ms ss bs bits) 0 len, exactAcc ms ss bs bits len, len * bs % 2 ^ 16) := by
  cases bits with
  | nil =>
    obtain rfl : len = 0 := Nat.eq_zero_of_not_pos fun hpos => Nat.not_lt_zero _ (hactive 0 hpos)
    rw [Nat.zero_mul]
    rfl
  | cons b rest =>
    have hloop := exactLoop_eq (ms := ms) (ss := ss) (bits := b :: rest) (n := len) (k := 0) hbs
      (by rwa [Nat.zero_add]) fun _ => rfl
    rwa [Nat.zero_add, Nat.zero_mul] at hloop

/-- The input never runs out before the last sample of the exact variant (46_tone_synth.md R258). -/
theorem active_lt_of_lt_length {n sr br k : Nat} (h : k < n * sr / br) :
    k * (br * 2 ^ 16 / sr) / 2 ^ 16 < n := by
  have hbr : 0 < br := Nat.pos_of_ne_zero (by rintro rfl; simp at h)
  rw [Nat.div_lt_iff_lt_mul (by decide)]
  have hk : k * br < n * sr := by
    have := (Nat.le_div_iff_mul_le hbr).mp h
    rw [Nat.succ_mul] at this
    omega
  refine Nat.lt_of_mul_lt_mul_right (a := sr) ?_
  calc k * (br * 2 ^ 16 / sr) * sr ≤ k * (br * 2 ^ 16) := by
        rw [Nat.mul_assoc]; exact Nat.mul_le_mul_left k (Nat.div_mul_le_self _ _)
    _ = k * br * 2 ^ 16 := (Nat.mul_assoc _ _ _).symm
    _ < n * sr * 2 ^ 16 := Nat.mul_lt_mul_of_pos_right hk (by decide)
    _ = n * 2 ^ 16 * sr := Nat.mul_right_comm _ _ _

theorem bitStepOf_le {br sr : Nat} (h : br ≤ sr) : bitStepOf br sr ≤ 2 ^ 16 :=
  Nat.div_le_of_le_mul (Nat.mul_le_mul_right _ h)

/-- Settles O58: each variant's equation gives its samples one by one, and the input lasts to the last sample. -/
theorem synthesisClosedForms : Obligations.SynthesisClosedForms := by
  unfold Obligations.SynthesisClosedForms
  intro ms ss sr br bits hbr hle _
  have hactive : ∀ k < bits.length * sr / br, k * (br * 2 ^ 16 / sr) / 2 ^ 16 < bits.length :=
    fun k => active_lt_of_lt_length
  have hbs : br * 2 ^ 16 / sr ≤ 2 ^ 16 := bitStepOf_le hle
  dsimp only
  rw [synthExact_eq ms ss hbs hactive, synthNaive_eq]
  exact ⟨fun k hk => ⟨hactive k hk, samplesOf_zero_getElem? _ hk⟩, samplesOf_length _ _ _, rfl, rfl,
    fun k hk => ⟨Nat.div_lt_of_lt_mul (by rwa [Nat.mul_comm]), samplesOf_zero_getElem? _ hk⟩, samplesOf_length _ _ _, rfl⟩

/-! ### What SYNTH makes in each mode -/

section
variable {c : Cfg}

theorem synthesized_of_exact (h : c.synthMode = false) (bits : Bits) :
    synthesized c bits = synthExact c.markStep c.spaceStep c.bitStep (exactLength c bits.length) bits := by
  rw [synthesized, h]
  rfl

theorem synthesized_of_naive (h : c.synthMode = true) (bits : Bits) :
    synthesized c bits =
      ((synthNaive c.markStep c.spaceStep c.spb bits).1, (synthNaive c.markStep c.spaceStep c.spb bits).2, 0) := by
  rw [synthesized, h]
  rfl

theorem sampleCount_of_exact (h : c.synthMode = false) (n : Nat) : sampleCount c n = exactLength c n := by
  rw [sampleCount, h]
  rfl

theorem sampleCount_of_naive (h : c.synthMode = true) (n : Nat) : sampleCount c n = naiveLength c n := by
  rw [sampleCount, h]
  rfl

end

/-! ### The variants agree at powers of two -/

section
variable {p : Nat}

/-- At `SR = BR * 2 ^ p` the same bit is active at sample `k` in both variants (46_tone_synth.md R266). -/
theorem mul_two_pow_sub_div (hp : p ≤ 16) (k : Nat) : k * 2 ^ (16 - p) / 2 ^ 16 = k / 2 ^ p := by
  conv_lhs => rw [← pow_mul_pow_sub 2 hp]
  exact Nat.mul_div_mul_right _ _ (Nat.two_pow_pos _)

theorem exactAcc_eq_naiveAcc (hp : p ≤ 16) (ms ss : Word) (bits : Bits) :
    exactAcc ms ss (2 ^ (16 - p)) bits = naiveAcc ms ss (2 ^ p) bits :=
  funext fun k => congrArg (toneSum ms ss bits · k) (funext (mul_two_pow_sub_div hp))

theorem synthExact_eq_synthNaive (hp : p ≤ 16) (ms ss : Word) (bits : Bits) :
    synthExact ms ss (2 ^ (16 - p)) (bits.length * 2 ^ p) bits =
      ((synthNaive ms ss (2 ^ p) bits).1, (synthNaive ms ss (2 ^ p) bits).2, 0) := by
  have hactive : ∀ k < bits.length * 2 ^ p, k * 2 ^ (16 - p) / 2 ^ 16 < bits.length := fun k hk => by
    rw [mul_two_pow_sub_div hp]
    exact Nat.div_lt_of_lt_mul (by rwa [Nat.mul_comm])
  have hbitAcc : bits.length * 2 ^ p * 2 ^ (16 - p) % 2 ^ 16 = 0 := by
    rw [Nat.mul_assoc, pow_mul_pow_sub 2 hp, Nat.mul_mod_left]
  rw [synthExact_eq ms ss (Nat.pow_le_pow_right (by decide) (Nat.sub_le 16 p)) hactive, synthNaive_eq,
    exactAcc_eq_naiveAcc hp, hbitAcc]

theorem bitStepOf_mul_two_pow {br : Nat} (hbr : 1 ≤ br) (hp : p ≤ 16) : bitStepOf br (br * 2 ^ p) = 2 ^ (16 - p) := by
  rw [bitStepOf, Nat.mul_div_mul_left _ _ hbr, Nat.pow_div hp (by decide)]

theorem spbOf_mul_two_pow {br : Nat} (hbr : 1 ≤ br) : spbOf (br * 2 ^ p) br = 2 ^ p := Nat.mul_div_cancel_left _ hbr

end

/-- Settles O59: both variants have the steps of the powers of two, where the two algorithms agree. -/
theorem variantsAgreeAtPowersOfTwo : Obligations.VariantsAgreeAtPowersOfTwo := by
  unfold Obligations.VariantsAgreeAtPowersOfTwo
  intro c c' bits p hp hbr hsr hsr' hbr' hmark hspace hexact hnaive
  have hbs : c.bitStep = 2 ^ (16 - p) := by rw [Cfg.bitStep, hsr, bitStepOf_mul_two_pow hbr hp]
  have hspb : c'.spb = 2 ^ p := by rw [Cfg.spb, hsr', hbr', hsr, spbOf_mul_two_pow hbr]
  have hlen : exactLength c bits.length = bits.length * 2 ^ p := by
    rw [exactLength, hsr, Nat.mul_left_comm, Nat.mul_div_cancel_left _ hbr]
  have hms : c'.markStep = c.markStep := by rw [Cfg.markStep, hmark, hsr', Cfg.markStep]
  have hss : c'.spaceStep = c.spaceStep := by rw [Cfg.spaceStep, hspace, hsr', Cfg.spaceStep]
  constructor
  · rw [synthesized_of_exact hexact, synthesized_of_naive hnaive, hms, hss, hbs, hspb, hlen, synthExact_eq_synthNaive hp]
  · rw [sampleCount_of_exact hexact, sampleCount_of_naive hnaive, hlen, naiveLength, hspb]

end Sys2Proof.Machine
end

section
/-!
PROOFS, the synthesis commands. SYNTH_PREP and SYNTH with a legal configuration (46_tone_synth.md R256, R262); and the whole
commands FRAME_BUILD, LINE_ENCODE and SYNTH run twice, from states that differ in their unit state only (R264): the shared order of
checks answers alike as soon as the bodies do.
-/

namespace Sys2Proof.Machine

/-! ### SYNTH_PREP and SYNTH -/

/-- The four steps and RESULT, written and completed, field by field (46_tone_synth.md R256, R262). -/
theorem State.prepare_setResult_succeed (s : State) (c : Cfg) (v : Word) :
    ((s.prepare c).setResult v).succeed =
      { s with
        units :=
          { s.units with
            markStep := c.markStep, spaceStep := c.spaceStep, bitStep := BitVec.ofNat 32 c.bitStep,
            spb := BitVec.ofNat 32 c.spb },
        result := v, err := .none, latched := none } := by
  rw [State.succeed, State.setResult, State.prepare, State.setSteps]

theorem exec_synthPrep {s : State} (hchecks : firstFailing (synthChecks s.cmdCfg) = none) :
    exec .synthPrep s = .next ((s.prepare s.cmdCfg).setResult (BitVec.ofNat 32 s.cmdCfg.spb)).succeed :=
  command_of_ok (body := fun _ => .ok _) hchecks (rfl : regionError s.lmemSize [] [] = none) rfl

/-- Settles O55: the configuration check is the only one, and the steps are those that `State.prepare` writes. -/
theorem synthPrepCompletes : Obligations.SynthPrepCompletes := by
  unfold Obligations.SynthPrepCompletes
  intro s
  dsimp only
  intro hsr hbr hle hbs
  have hchecks := (firstFailing_synthChecks_eq_none_iff _).mpr ⟨hsr, hbr, hle, hbs⟩
  rw [exec_synthPrep hchecks, State.prepare_setResult_succeed]
  rfl

/-- The state in which SYNTH leaves its effects on an input of `bits` (46_tone_synth.md R262). -/
def State.storeSamples (s : State) (bits : Bits) : State :=
  let o := synthesized s.cmdCfg bits
  (((s.store s.cmdArgs.n2 (packSamples o.1)).setAccs o.2.1 o.2.2).prepare s.cmdCfg).setResult
    (BitVec.ofNat 32 (sampleCount s.cmdCfg s.cmdArgs.n1))

theorem exec_synth {s : State} {bits : Bits}
    (passed : Passed s (synthChecks s.cmdCfg) [bitRegion s.cmdArgs.n0 s.cmdArgs.n1]
      [sampleRegion s.cmdArgs.n2 s.cmdArgs.n3] (s.lmem.readBits s.cmdArgs.n0 s.cmdArgs.n1) bits)
    (fits : sampleCount s.cmdCfg s.cmdArgs.n1 ≤ s.cmdArgs.n3) : exec .synth s = .next (s.storeSamples bits).succeed :=
  passed.command_eq_of_fits (n := fun _ => sampleCount s.cmdCfg s.cmdArgs.n1) (u := s.storeSamples) fits

/-- Settles O56: the checks pass and the samples fit, so the effects are those of the mode's algorithm. -/
theorem synthCompletes : Obligations.SynthCompletes := by
  unfold Obligations.SynthCompletes
  intro s bits
  dsimp only
  intro hsr hbr hle hbs hin hout hapart hbits fits
  have hchecks := (firstFailing_synthChecks_eq_none_iff _).mpr ⟨hsr, hbr, hle, hbs⟩
  rw [exec_synth (passed_of_apart hchecks hin hout hapart hbits) fits, State.storeSamples,
    State.prepare_setResult_succeed]
  cases hmode : s.cmdCfg.synthMode with
  | true =>
    rw [synthesized_of_naive hmode, sampleCount_of_naive hmode]
    rfl
  | false =>
    rw [synthesized_of_exact hmode, sampleCount_of_exact hmode, Memory.readBits_length hbits]
    rfl

/-! ### Two runs from different unit states -/

/-- Two completions alike: the same memory, RESULT and code, and on success unit states that agree as `agree` says
(46_tone_synth.md R264). -/
def SameOutcome (agree : Units → Units → Prop) (t t' : State) : Prop :=
  t'.lmem = t.lmem ∧ t'.result = t.result ∧ t'.err = t.err ∧ (t.err = .none → agree t'.units t.units)

/-- Two bodies of a command answer alike: the same error code, or effects whose completions are alike. -/
inductive SameAnswer (agree : Units → Units → Prop) : Except ErrCode State → Except ErrCode State → Prop where
  | error {code : ErrCode} (h : code ≠ .none) : SameAnswer agree (.error code) (.error code)
  | ok {v v' : State} (h : SameOutcome agree v.succeed v'.succeed) : SameAnswer agree (.ok v) (.ok v')

section
variable {agree : Units → Units → Prop}

theorem sameAnswer_withCapacity {n cap : Nat} {v v' : State} (h : SameOutcome agree v.succeed v'.succeed) :
    SameAnswer agree (withCapacity n cap v) (withCapacity n cap v') := by
  unfold withCapacity
  split
  · exact .ok h
  · exact .error nofun

/-- A failure has no effect but its code, which is not 0. -/
theorem sameOutcome_fail (s : State) (u : Units) {code : ErrCode} (h : code ≠ .none) :
    SameOutcome agree (s.fail code) ({ s with units := u }.fail code) := ⟨rfl, rfl, rfl, fun herr => absurd herr h⟩

/-- The order of checks looks at no unit state: with bodies that answer alike it completes alike. -/
theorem command_sameOutcome {α : Type} {s t : State} {u : Units} {checks : List (Bool × ErrCode)} {ins outs : List Region}
    {input : Option α} {body body' : α → Except ErrCode State} (h : command s checks ins outs input body = .next t)
    (hchecks : ∀ x ∈ checks, x.2 ≠ .none) (hbody : ∀ x, SameAnswer agree (body x) (body' x)) :
    ∃ t', command { s with units := u } checks ins outs input body' = .next t' ∧ SameOutcome agree t t' := by
  cases hc : firstFailing checks with
  | some code =>
    rw [command_of_check hc] at h
    cases h
    exact ⟨_, command_of_check hc, sameOutcome_fail s u fun hnone => firstFailing_ne_none_code hchecks (hnone ▸ hc)⟩
  | none =>
    cases hr : regionError s.lmemSize ins outs with
    | some code =>
      rw [command_of_region hc hr] at h
      cases h
      exact ⟨_, command_of_region hc hr, sameOutcome_fail s u fun hnone => regionError_ne_none_code _ (hnone ▸ hr)⟩
    | none =>
      cases input with
      | none =>
        rw [command_of_unwritten hc hr] at h
        cases h
      | some x =>
        have hanswer := hbody x
        generalize hb : body x = answer, hb' : body' x = answer' at hanswer
        cases hanswer with
        | error hcode =>
          rw [command_of_body_error hc hr hb] at h
          cases h
          exact ⟨_, command_of_body_error hc hr hb', sameOutcome_fail s u hcode⟩
        | ok hsame =>
          rw [command_of_ok hc hr hb] at h
          cases h
          exact ⟨_, command_of_ok hc hr hb', hsame⟩

end

section
variable {s t : State} (u : Units)

theorem exec_frameBuild_sameOutcome {ndigi : Nat} (h : exec (.frameBuild ndigi) s = .next t) :
    ∃ t', exec (.frameBuild ndigi) { s with units := u } = .next t' ∧ SameOutcome (fun v w => v.crc = w.crc) t t' := by
  dsimp only [exec, execFrameBuild] at h
  refine command_sameOutcome h (by simp) fun input => ?_
  dsimp only
  split
  next code hcode => exact .error fun hnone => tableError_ne_none_code _ (hnone ▸ hcode)
  next => exact .ok ⟨rfl, rfl, rfl, fun _ => rfl⟩

theorem exec_lineEncode_sameOutcome (h : exec .lineEncode s = .next t) :
    ∃ t', exec .lineEncode { s with units := u } = .next t' ∧
      SameOutcome (fun v w => v.onesCnt = w.onesCnt ∧ v.lineState = w.lineState) t t' :=
  command_sameOutcome h (by simp [framingChecks]) fun _ => sameAnswer_withCapacity ⟨rfl, rfl, rfl, fun _ => ⟨rfl, rfl⟩⟩

theorem exec_synth_sameOutcome (h : exec .synth s = .next t) :
    ∃ t', exec .synth { s with units := u } = .next t' ∧
      SameOutcome (fun v w => v.toneAcc = w.toneAcc ∧ v.bitAcc = w.bitAcc ∧ v.markStep = w.markStep ∧
        v.spaceStep = w.spaceStep ∧ v.bitStep = w.bitStep ∧ v.spb = w.spb) t t' :=
  command_sameOutcome h (by simp [synthChecks]) fun _ =>
    sameAnswer_withCapacity ⟨rfl, rfl, rfl, fun _ => ⟨rfl, rfl, rfl, rfl, rfl, rfl⟩⟩

end

/-- Settles O60: each of the three commands writes its registers from its input, its arguments and its configuration alone. -/
theorem wholeCommandsIgnoreUnitState : Obligations.WholeCommandsIgnoreUnitState :=
  fun _ _ u => ⟨fun _ => exec_frameBuild_sameOutcome u, exec_lineEncode_sameOutcome u, exec_synth_sameOutcome u⟩

end Sys2Proof.Machine
end

section
/-!
PROOFS, reset (70_reset_and_hazards.md R311, R312).
-/

namespace Sys2Proof.Machine

/-- A reset step is `State.applyReset` of the state with the reset taken off the schedule. -/
theorem step_of_reset {s : State} {rest : List Event} (h : s.schedule = .reset :: rest) :
    step s = .next ({ s with schedule := rest } : State).applyReset := by
  rw [step_of_cons h, popEvent_of_cons h]
  rfl

/-- A reset leaves the machine idle (70_reset_and_hazards.md R312). -/
@[simp] theorem State.busy_applyReset (s : State) : s.applyReset.busy = false :=
  s.applyReset.busy_eq_false_iff.mpr s.applyReset_latched

/-- After a reset no byte of LMEM is written (20_memory.md R90). -/
theorem State.applyReset_read (s : State) (a : Nat) : s.applyReset.lmem.read a = none := by
  rw [State.applyReset_lmem, Memory.read_nil]

/-- Settles O2: the next state is `State.applyReset`, whose fields are those of the reset table whatever command was latched. -/
theorem resetAbandonsLatchedCommand : Obligations.ResetAbandonsLatchedCommand := by
  unfold Obligations.ResetAbandonsLatchedCommand
  intro s rest h
  exact ⟨_, step_of_reset h, State.applyReset_latched _, State.busy_applyReset _, State.applyReset_args _,
    State.applyReset_cfg _, State.applyReset_units _, State.applyReset_result _, State.applyReset_err _,
    State.applyReset_errs _, State.applyReset_ovr _, State.applyReset_read _, State.applyReset_lmemSize _,
    State.applyReset_schedule _⟩

end Sys2Proof.Machine
end
